-- ==== Sys2Proof/Word.lean ====
section
/-! DEFINITION. The byte, and the small closed sets of names the spec uses for spaces and algorithms. -/

namespace Sys2Proof

/-- One byte, and one ASCII character of a text: 8 bits (00_scope.md R9). -/
abbrev Byte := BitVec 8

/-- The three address spaces, one per buffer (20_memory.md R50). -/
inductive Space where
  | abuf
  | bbuf
  | obuf
  deriving DecidableEq, Repr

/-- The `ALG` field of `DTRUNC`: the supported algorithms 0, 1, 2 and the unsupported selector 3, by the names of
30_encoding.md R77 (R73). -/
inductive AlgSel where
  | sha1
  | sha256
  | sha512
  | alg3
  deriving DecidableEq, Repr

/-- The host's closed set of hash functions (45_host_flows.md R167): an unsupported one cannot be named. -/
inductive Hash where
  | sha1
  | sha256
  | sha512
  deriving DecidableEq, Repr

end Sys2Proof
end

