-- ==== Sys2Proof/Syntax.lean ====
section
/-! DEFINITION. The seven commands of OTPB, one constructor per row of the opcode table (30_encoding.md R72). -/

namespace Sys2Proof

/-- A command (30_encoding.md R72). Only `DTRUNC` and `DFMT` have an encoded operand (R73). -/
inductive Instr where
  /-- Base32-encode `ABUF` (40_base32.md R96). -/
  | b32enc
  /-- Base32-decode `ABUF` (40_base32.md R103). -/
  | b32dec
  /-- Counter to 8 bytes (41_counter.md R120). -/
  | ctrenc
  /-- Dynamic truncation of the digest in `ABUF` (42_truncate_format.md R130). -/
  | dtrunc (alg : AlgSel)
  /-- Decimal rendering of `CODE` in `digits` characters (42_truncate_format.md R135). -/
  | dfmt (digits : Nat)
  /-- Timing-safe comparison (43_compare.md R150). -/
  | cmp
  /-- Zero all state (44_housekeeping.md R160). -/
  | clr
  deriving DecidableEq, Repr

end Sys2Proof
end

