-- ==== Sys2Proof/WellFormed.lean ====
section
/-! DEFINITION. Which terms of `Instr` a command word can carry. -/

namespace Sys2Proof

/-- The `DIGITS` field is 4 bits wide (30_encoding.md R71, R73), so it carries 0 to 15. The other operands cannot be
out of range. -/
def Instr.wellFormed : Instr → Bool
  | .b32enc => true
  | .b32dec => true
  | .ctrenc => true
  | .dtrunc _ => true
  | .dfmt digits => decide (digits < 16)
  | .cmp => true
  | .clr => true

end Sys2Proof
end

