-- ==== Sys2Proof/Decode.lean ====
section
/-! DEFINITION. From a command word to a command and back (30_encoding.md R70 to R76). -/

namespace Sys2Proof

/-- What a command word turns out to be: a command, or `ILLEGAL` (30_encoding.md R76). -/
inductive Decoded where
  | command (i : Instr)
  | illegal
  deriving DecidableEq, Repr

/-- The selector named by the 2-bit `ALG` field (30_encoding.md R73). -/
def AlgSel.ofBits (b : BitVec 2) : AlgSel :=
  if b = 0 then .sha1 else if b = 1 then .sha256 else if b = 2 then .sha512 else .alg3

/-- The 2-bit `ALG` field that names a selector (30_encoding.md R73). -/
def AlgSel.bits : AlgSel → BitVec 2
  | .sha1 => 0
  | .sha256 => 1
  | .sha512 => 2
  | .alg3 => 3

/-- Decoding, total on the 256 words and a function of the word alone (30_encoding.md R76). -/
def decode (w : BitVec 8) : Decoded :=
  let op : BitVec 4 := w.extractLsb' 4 4
  let arg : BitVec 4 := w.extractLsb' 0 4
  if op = 0x1 ∧ arg = 0 then .command .b32enc
  else if op = 0x2 ∧ arg = 0 then .command .b32dec
  else if op = 0x3 ∧ arg = 0 then .command .ctrenc
  else if op = 0x4 ∧ arg.extractLsb' 2 2 = 0#2 then .command (.dtrunc (AlgSel.ofBits (arg.extractLsb' 0 2)))
  else if op = 0x5 then .command (.dfmt arg.toNat)
  else if op = 0x6 ∧ arg = 0 then .command .cmp
  else if op = 0x7 ∧ arg = 0 then .command .clr
  else .illegal

/-- The word of a well-formed command: `op` in bits 7:4, `arg` in bits 3:0 (30_encoding.md R71, R72). -/
def encode : Instr → BitVec 8
  | .b32enc => 0x1#4 ++ 0x0#4
  | .b32dec => 0x2#4 ++ 0x0#4
  | .ctrenc => 0x3#4 ++ 0x0#4
  | .dtrunc alg => 0x4#4 ++ (0x0#2 ++ alg.bits : BitVec 4)
  | .dfmt digits => 0x5#4 ++ BitVec.ofNat 4 digits
  | .cmp => 0x6#4 ++ 0x0#4
  | .clr => 0x7#4 ++ 0x0#4

/-- A row of the opcode map: a word selects the row exactly when `(word & mask) == value` (30_encoding.md R72). -/
structure OpcodeRow where
  mnemonic : String
  value : BitVec 8
  mask : BitVec 8
  deriving DecidableEq, Repr

/-- The row of the opcode map that a command belongs to (30_encoding.md R72). -/
def Instr.row : Instr → OpcodeRow
  | .b32enc => ⟨"B32ENC", 0x10, 0xFF⟩
  | .b32dec => ⟨"B32DEC", 0x20, 0xFF⟩
  | .ctrenc => ⟨"CTRENC", 0x30, 0xFF⟩
  | .dtrunc _ => ⟨"DTRUNC", 0x40, 0xFC⟩
  | .dfmt _ => ⟨"DFMT", 0x50, 0xF0⟩
  | .cmp => ⟨"CMP", 0x60, 0xFF⟩
  | .clr => ⟨"CLR", 0x70, 0xFF⟩

/-- The opcode map, in the order of 30_encoding.md R72. -/
def opcodeMap : List OpcodeRow :=
  [Instr.row .b32enc, Instr.row .b32dec, Instr.row .ctrenc, Instr.row (.dtrunc .sha1), Instr.row (.dfmt 0),
    Instr.row .cmp, Instr.row .clr]

/-- Whether a word selects a row of the opcode map (30_encoding.md R72). -/
def OpcodeRow.selects (r : OpcodeRow) (w : BitVec 8) : Bool :=
  w &&& r.mask == r.value

/-- The command word among the bits the opcode table numbers: a command is one 8-bit word (30_encoding.md R70), bits
beyond `nbits` are zero. -/
def tableWord (nbits w : Nat) : Nat :=
  w % 2 ^ nbits

/-- The command this decoder reads from a word numbered as the opcode table numbers it; none for an illegal word. -/
def decodeTableWord (nbits w : Nat) : Option Instr :=
  if tableWord nbits w < 2 ^ 8 then
    match decode (BitVec.ofNat 8 (tableWord nbits w)) with
    | .command i => some i
    | .illegal => none
  else none

end Sys2Proof
end

