-- ==== Sys2Proof/Config.lean ====
section
/-! DEFINITION. What an implementation fixes (the capacity `N`) and what nobody fixes (unspecified bytes). -/

namespace Sys2Proof

/-- The block's one open parameter, `N`, the capacity in bytes of `ABUF` and of `BBUF` (00_scope.md R6,
93_implementation_defined.md U8). -/
structure Params where
  capacity : Nat
  deriving DecidableEq, Repr

/-- The capacities the spec admits: `64 <= N <= 2^28` (00_scope.md R6). -/
abbrev Params.Admitted (p : Params) : Prop :=
  64 ≤ p.capacity ∧ p.capacity ≤ 2 ^ 28

/-- `NO`, the capacity of `OBUF`: `max(ceil(8*N/5), 15)` (00_scope.md R6). -/
def Params.outCapacity (p : Params) : Nat :=
  max ((8 * p.capacity + 4) / 5) 15

/-- FREE VALUE: what an unspecified byte of a buffer reads as (93_implementation_defined.md U1, U2). `draw` numbers
the step that reads it, so two steps that read the same byte need not agree (20_memory.md R56). No body: nothing can
be proved of its value (log entry 2). -/
opaque Config.freeByte (draw : Nat) (space : Space) (index : Nat) : Byte

end Sys2Proof
end

