-- ==== Sys2Proof/Machine/State.lean ====
section
/-! DEFINITION. The state of the block with its host, as plain data, and the state after reset. -/

namespace Sys2Proof.Machine

/-- What the bytes of a buffer that its list does not hold are: unspecified (93_implementation_defined.md U1, U2), or
zero, as `CLR` leaves them (44_housekeeping.md R160). -/
inductive Fill where
  | unspecified
  | zero
  deriving DecidableEq, Repr

/-- One buffer: the bytes that hold a known value, by rising index, over a fill. The canonical form is `Memory.wf`. -/
structure Memory where
  fill : Fill
  cells : List Host.Cell
  deriving DecidableEq, Repr

/-- A buffer in which every byte is unspecified (10_state.md R37). -/
def Memory.unspecified : Memory := { fill := .unspecified, cells := [] }

/-- A buffer in which every byte is zero (44_housekeeping.md R160). -/
def Memory.zeros : Memory := { fill := .zero, cells := [] }

/-- The registers the host can name in `rd` (10_state.md R20). `cmd` holds nothing and reads 0 (R30). -/
inductive Reg where
  | ctr
  | code
  | alen
  | blen
  | olen
  | matchFlag
  | err
  | scan
  | cmd
  deriving DecidableEq, Repr

/-- The host's moves, complete (20_memory.md R61). There is none that writes `OLEN`, `MATCH`, `ERR`, `SCAN` or
`OBUF` (R58). -/
inductive HostMove where
  | seta (bytes : List Byte)
  | setb (bytes : List Byte)
  | wra (index : Nat) (value : Byte)
  | wrb (index : Nat) (value : Byte)
  | setalen (n : BitVec 32)
  | setblen (n : BitVec 32)
  | setctr (c : BitVec 64)
  | setcode (c : BitVec 32)
  | cmd (w : BitVec 8)
  | rd (r : Reg)
  | rda (index : Nat)
  | rdb (index : Nat)
  | rdo (index : Nat)
  | rdout
  deriving DecidableEq, Repr

/-- What reaches the block from outside, one a step: a host move, or the reset input (70_reset_and_hazards.md R200,
R201). -/
inductive Input where
  | host (m : HostMove)
  | reset
  deriving DecidableEq, Repr

/-- What the host's latest read returned (20_memory.md R61): a register, one byte, or the bytes of `rdout`. -/
inductive Reply where
  | noRead
  | word (v : BitVec 64)
  | byte (v : Byte)
  | bytes (vs : List Byte)
  deriving DecidableEq, Repr

/-- The completion codes (60_exceptions.md R181). -/
inductive ErrCode where
  | ok
  | input
  | encoding
  | config
  | illegal
  deriving DecidableEq, Repr

/-- The state: every register and buffer of 10_state.md R20; the block's parameter; and three fields of the model's
own (`draws`, `inputs`, `reply`: log entries 2, 4 and 6). -/
structure State where
  /-- `N`, fixed for one block: no step changes it (10_state.md R34; log entry 1). -/
  params : Params
  /-- `CTR` (R21). -/
  ctr : BitVec 64
  /-- `CODE` (R22). -/
  code : BitVec 31
  /-- `ALEN` (R23). -/
  alen : BitVec 32
  /-- `BLEN` (R24). -/
  blen : BitVec 32
  /-- `OLEN` (R25). -/
  olen : BitVec 32
  /-- `MATCH` (R26). -/
  matchFlag : Bool
  /-- `ERR` (R28). -/
  err : BitVec 3
  /-- `SCAN` (R29). -/
  scan : BitVec 32
  /-- `ABUF` (R31). -/
  abuf : Memory
  /-- `BBUF` (R31). -/
  bbuf : Memory
  /-- `OBUF` (R32). -/
  obuf : Memory
  /-- The number of the present draw of unspecified bytes. -/
  draws : Nat
  /-- What the outside world does next, oldest first (R34 "the sequence of host actions"). -/
  inputs : List Input
  /-- What the host last read. -/
  reply : Reply
  deriving DecidableEq, Repr

/-- No step of the block stops with a fault: every one of the 256 command words has exactly one defined behaviour
(30_encoding.md R75) and an error is a completion code in `ERR`, not a stop (60_exceptions.md R180). So there is no
constructor (log entry 15). -/
inductive Fault : Type
  deriving DecidableEq, Repr

/-- Why the model goes no further. -/
inductive Refusal where
  /-- Raised by `exec` for a command that has no meaning yet; none is left. Safe. -/
  | notModelled (mnemonic : String)
  /-- Raised by the host port for a move the host does not have: an index or a string beyond a buffer's capacity
  (20_memory.md R51, R61; 93_implementation_defined.md U7, treatment "refuse"). Safe. -/
  | hostMoveUnavailable
  /-- Raised by a host flow whose precondition fails: a step of 0 or a time before the epoch
  (93_implementation_defined.md U9, treatment "refuse"). Never by a step of the block. Safe. -/
  | flowUndefined
  deriving DecidableEq, Repr

/-- The state after reset of a block with parameter `p` (10_state.md R37): registers 0, every buffer byte
unspecified; nothing asked of the block yet. -/
def State.resetWith (p : Params) : State where
  params := p
  ctr := 0
  code := 0
  alen := 0
  blen := 0
  olen := 0
  matchFlag := false
  err := 0
  scan := 0
  abuf := .unspecified
  bbuf := .unspecified
  obuf := .unspecified
  draws := 0
  inputs := []
  reply := .noRead

/-- The machine right after reset (10_state.md R37). DESIGN CHOICE, unsafe: of the capacities the spec leaves open it
takes `N` = 64, the one the spec's test programs use (log entry 1). -/
def State.reset : State :=
  State.resetWith { capacity := 64 }

end Sys2Proof.Machine
end

