-- ==== Sys2Proof/Machine/Ops.lean ====
section
/-! DEFINITION. The named operations over buffers and registers that the meanings share, and the two completions of a
command (60_exceptions.md R183, R184). -/

namespace Sys2Proof.Machine

/-! ## One buffer -/

/-- The known byte at an index, if the list holds one. -/
def findCell : List Host.Cell → Nat → Option Byte
  | [], _ => none
  | (j, v) :: rest, i => if j = i then some v else findCell rest i

/-- What an index that the list does not hold reads as, in the draw numbered `draw`: zero after `CLR`, a free value
where the spec fixes no value (93_implementation_defined.md U1, U2). -/
def Memory.unlisted (m : Memory) (sp : Space) (draw i : Nat) : Byte :=
  match m.fill with
  | .unspecified => Config.freeByte draw sp i
  | .zero => 0

/-- `MemRead(BUF, i)` (00_scope.md R10). -/
def Memory.read (m : Memory) (sp : Space) (draw i : Nat) : Byte :=
  match findCell m.cells i with
  | some v => v
  | none => m.unlisted sp draw i

/-- Whether the byte at an index has a value the spec fixes, not an unspecified one. -/
def Memory.specified (m : Memory) (i : Nat) : Bool :=
  decide (m.fill = .zero) || (findCell m.cells i).isSome

/-- Puts a byte into a list of cells by rising index. -/
def insertCell (i : Nat) (v : Byte) : List Host.Cell → List Host.Cell
  | [] => [(i, v)]
  | (j, w) :: rest =>
    if i < j then (i, v) :: (j, w) :: rest
    else if i = j then (i, v) :: rest
    else (j, w) :: insertCell i v rest

/-- Takes an index out of a list of cells. -/
def eraseCell (i : Nat) : List Host.Cell → List Host.Cell
  | [] => []
  | (j, w) :: rest => if j = i then eraseCell i rest else (j, w) :: eraseCell i rest

/-- `MemWrite(BUF, i, v)` (00_scope.md R10). A zero written over a zero fill leaves the list, so that equal buffers
are equal data; over an unspecified fill every written byte stays listed (log entry 3). -/
def Memory.write (m : Memory) (i : Nat) (v : Byte) : Memory :=
  if m.fill = .zero ∧ v = 0 then { m with cells := eraseCell i m.cells }
  else { m with cells := insertCell i v m.cells }

/-- `MemWrite` of a string from an index on. -/
def Memory.writeFrom (m : Memory) (i : Nat) : List Byte → Memory
  | [] => m
  | v :: vs => (m.write i v).writeFrom (i + 1) vs

/-- The cells that hold a string from an index on. -/
def cellsFrom (i : Nat) : List Byte → List Host.Cell
  | [] => []
  | v :: vs => (i, v) :: cellsFrom (i + 1) vs

/-- A buffer that holds a string from index 0 and nothing known beyond it (10_state.md R32). -/
def Memory.ofBytes (vs : List Byte) : Memory :=
  { fill := .unspecified, cells := cellsFrom 0 vs }

/-- The indexes of a list of cells rise strictly. -/
def rising : List Host.Cell → Bool
  | [] => true
  | (i, _) :: rest => rest.all (fun c => decide (i < c.1)) && rising rest

/-- The canonical form of a buffer: indexes strictly rising, and no listed zero over a zero fill. -/
def Memory.wf (m : Memory) : Bool :=
  rising m.cells && (decide (m.fill = .unspecified) || m.cells.all (fun c => decide (c.2 ≠ 0)))

/-- Every listed index lies below a capacity (20_memory.md R51). -/
def Memory.within (m : Memory) (capacity : Nat) : Bool :=
  m.cells.all (fun c => decide (c.1 < capacity))

/-! ## The three buffers of the state -/

/-- `N` of the block. -/
def State.capacity (s : State) : Nat :=
  s.params.capacity

/-- `NO` of the block. -/
def State.outCapacity (s : State) : Nat :=
  s.params.outCapacity

/-- `MemRead(ABUF, i)`. -/
def State.readA (s : State) (i : Nat) : Byte :=
  s.abuf.read .abuf s.draws i

/-- `MemRead(BBUF, i)`. -/
def State.readB (s : State) (i : Nat) : Byte :=
  s.bbuf.read .bbuf s.draws i

/-- `MemRead(OBUF, i)`; only the host reads `OBUF` (10_state.md R20). -/
def State.readO (s : State) (i : Nat) : Byte :=
  s.obuf.read .obuf s.draws i

/-- The result of the last command that wrote `OBUF`: `OBUF[0 .. OLEN)` (10_state.md R25). -/
def State.result (s : State) : List Byte :=
  (List.range s.olen.toNat).map s.readO

/-! ## Completions -/

/-- The 3-bit code of a completion (60_exceptions.md R181). -/
def ErrCode.bits : ErrCode → BitVec 3
  | .ok => 0
  | .input => 1
  | .encoding => 2
  | .config => 3
  | .illegal => 4

/-- The result slot of a command, as 60_exceptions.md R184 groups the commands: `OBUF` and `OLEN`; `CODE`; `MATCH` and
`SCAN`; none, for an illegal word. -/
inductive ResultSlot where
  | output
  | code
  | compare
  | nothing
  deriving DecidableEq, Repr

/-- `raise <Error>`: the error completion (00_scope.md R10, 60_exceptions.md R180, R184). `ERR` takes the code, the
result slot is withheld, nothing else changes. -/
def State.raise (s : State) (slot : ResultSlot) (e : ErrCode) : State :=
  match slot with
  | .output => { s with err := e.bits, olen := 0, obuf := .unspecified }
  | .code => { s with err := e.bits }
  | .compare => { s with err := e.bits, matchFlag := false, scan := 0 }
  | .nothing => { s with err := e.bits }

/-- Success of a command whose result is a string: `OBUF` and `OLEN` hold it, every byte of `OBUF` beyond it becomes
unspecified (10_state.md R32), `ERR` is 0 (60_exceptions.md R183). -/
def State.succeedOutput (s : State) (vs : List Byte) : State :=
  { s with err := ErrCode.bits .ok, olen := BitVec.ofNat 32 vs.length, obuf := .ofBytes vs }

/-- Success of `DTRUNC`: `CODE` and `ERR` (10_state.md R36). -/
def State.succeedCode (s : State) (v : BitVec 31) : State :=
  { s with err := ErrCode.bits .ok, code := v }

/-- Success of `CMP`: `MATCH`, `SCAN` and `ERR` (10_state.md R36). -/
def State.succeedCompare (s : State) (equal : Bool) (pairs : BitVec 32) : State :=
  { s with err := ErrCode.bits .ok, matchFlag := equal, scan := pairs }

/-- Every register 0 and every buffer byte 0 (44_housekeeping.md R160). -/
def State.clearAll (s : State) : State :=
  { s with
    ctr := 0, code := 0, alen := 0, blen := 0, olen := 0, matchFlag := false, scan := 0
    abuf := .zeros, bbuf := .zeros, obuf := .zeros, err := ErrCode.bits .ok }

/-- The reset input: every register 0 and every buffer byte unspecified (10_state.md R37, 70_reset_and_hazards.md
R200, R201). The parameter and what belongs to the world outside the block stay (log entry 5). -/
def State.resetBlock (s : State) : State :=
  { State.resetWith s.params with draws := s.draws, inputs := s.inputs, reply := s.reply }

/-! ## The host's end -/

/-- The state in which the input now due is performed: the rest is still to come, and unspecified bytes are drawn
anew (20_memory.md R56; log entry 2). -/
def State.takeInput (s : State) (rest : List Input) : State :=
  { s with inputs := rest, draws := s.draws + 1 }

/-- `seta`: a string into `ABUF` from index 0, and its length into `ALEN` (20_memory.md R61). -/
def State.loadA (s : State) (vs : List Byte) : State :=
  { s with abuf := s.abuf.writeFrom 0 vs, alen := BitVec.ofNat 32 vs.length }

/-- `setb`: the same for `BBUF` and `BLEN`. -/
def State.loadB (s : State) (vs : List Byte) : State :=
  { s with bbuf := s.bbuf.writeFrom 0 vs, blen := BitVec.ofNat 32 vs.length }

/-- `wra`: one byte of `ABUF`. -/
def State.writeA (s : State) (i : Nat) (v : Byte) : State :=
  { s with abuf := s.abuf.write i v }

/-- `wrb`: one byte of `BBUF`. -/
def State.writeB (s : State) (i : Nat) (v : Byte) : State :=
  { s with bbuf := s.bbuf.write i v }

/-- `setalen`. -/
def State.setAlen (s : State) (n : BitVec 32) : State :=
  { s with alen := n }

/-- `setblen`. -/
def State.setBlen (s : State) (n : BitVec 32) : State :=
  { s with blen := n }

/-- `setctr`: the whole counter in one access (20_memory.md R54). -/
def State.setCtr (s : State) (c : BitVec 64) : State :=
  { s with ctr := c }

/-- `setcode`: the value modulo `2^31` (10_state.md R22). -/
def State.setCode (s : State) (c : BitVec 32) : State :=
  { s with code := c.setWidth 31 }

/-- What a read hands back to the host. -/
def State.answer (s : State) (r : Reply) : State :=
  { s with reply := r }

end Sys2Proof.Machine
end

