-- ==== Sys2Proof/Machine/Operands.lean ====
section
/-! DEFINITION. The operands of the commands: the strings in the buffers, the digest lengths, the counter's bytes. -/

namespace Sys2Proof.Machine

/-- `ABUF[0 .. ALEN)`, the operand of the commands that read `ABUF` (10_state.md R23). -/
def State.operandA (s : State) : List Byte :=
  (List.range s.alen.toNat).map s.readA

/-- `BBUF[0 .. BLEN)`, the second operand of `CMP` (10_state.md R24). -/
def State.operandB (s : State) : List Byte :=
  (List.range s.blen.toNat).map s.readB

/-- The digest length of a hash function (42_truncate_format.md R131). -/
def digestLength : Hash → Nat
  | .sha1 => 20
  | .sha256 => 32
  | .sha512 => 64

/-- The supported algorithm a selector names; none for selector 3 (30_encoding.md R73). -/
def supportedHash : AlgSel → Option Hash
  | .sha1 => some .sha1
  | .sha256 => some .sha256
  | .sha512 => some .sha512
  | .alg3 => none

/-- The selector that names a supported algorithm (30_encoding.md R73). -/
def selectorOf : Hash → AlgSel
  | .sha1 => .sha1
  | .sha256 => .sha256
  | .sha512 => .sha512

/-- Byte `i` of the counter message: bits `8*(7-i)+7 .. 8*(7-i)` of the counter (41_counter.md R120). -/
def counterByte (c : BitVec 64) (i : Nat) : Byte :=
  BitVec.ofNat 8 ((c.toNat >>> (8 * (7 - i))) &&& 0xFF)

/-- The 8-byte counter message, most significant byte first (41_counter.md R120, 20_memory.md R52). -/
def counterMessage (c : BitVec 64) : List Byte :=
  (List.range 8).map (counterByte c)

/-- The offset of dynamic truncation: the low nibble of the last digest byte (42_truncate_format.md R130). -/
def truncationOffset (last : Byte) : Nat :=
  last.toNat &&& 0x0F

/-- The 31-bit code of four digest bytes, the first most significant and its top bit masked off
(42_truncate_format.md R130). -/
def truncatedCode (b0 b1 b2 b3 : Byte) : BitVec 31 :=
  BitVec.ofNat 31 (((b0.toNat &&& 0x7F) <<< 24) ||| (b1.toNat <<< 16) ||| (b2.toNat <<< 8) ||| b3.toNat)

/-- The `d` low decimal digits of a number as ASCII characters, least significant last (42_truncate_format.md
R135). -/
def decimalText : Nat → Nat → List Byte
  | 0, _ => []
  | d + 1, r => decimalText d (r / 10) ++ [BitVec.ofNat 8 (0x30 + r % 10)]

end Sys2Proof.Machine
end

