-- ==== Sys2Proof/Machine/Base32.lean ====
section
/-! DEFINITION. The Base32 codec, commands `B32ENC` and `B32DEC` (40_base32.md). The loops follow the pseudocode of
R96 and R103; `BitQueue` is the hidden state of 10_state.md R33 (log entry 9). -/

namespace Sys2Proof.Machine

/-- `ALPHA[v]`, the character of a symbol value (40_base32.md R92). -/
def alphabet (v : Nat) : Byte :=
  if v ≤ 25 then BitVec.ofNat 8 (0x41 + v) else BitVec.ofNat 8 (0x32 + (v - 26))

/-- `VAL(c)`, the symbol value of a character, or none (40_base32.md R92). -/
def symbolValue (c : Byte) : Option Nat :=
  if 0x41 ≤ c.toNat ∧ c.toNat ≤ 0x5A then some (c.toNat - 0x41)
  else if 0x32 ≤ c.toNat ∧ c.toNat ≤ 0x37 then some (c.toNat - 0x32 + 26)
  else none

/-- The whitespace set `WS` (40_base32.md R94). -/
def isWhitespace (c : Byte) : Bool :=
  c == 0x09 || c == 0x0A || c == 0x0B || c == 0x0C || c == 0x0D || c == 0x20

/-- Upper-casing of `a` to `z`, every other byte as it is (40_base32.md R95). -/
def upperCase (c : Byte) : Byte :=
  if 0x61 ≤ c.toNat ∧ c.toNat ≤ 0x7A then c - 0x20 else c

/-- `acc`, `nb` and the output so far, whose length is `k` (10_state.md R33, 40_base32.md R96). -/
structure BitQueue where
  acc : Nat
  nb : Nat
  out : List Byte
  deriving DecidableEq, Repr

/-- The hidden state as each command initialises it (10_state.md R33). -/
def emptyQueue : BitQueue := { acc := 0, nb := 0, out := [] }

/-- One round of the encoder's inner loop: emit the top 5 of the buffered bits (40_base32.md R96). -/
def emitSymbol (q : BitQueue) : BitQueue :=
  { acc := q.acc &&& (2 ^ (q.nb - 5) - 1)
    nb := q.nb - 5
    out := q.out ++ [alphabet ((q.acc >>> (q.nb - 5)) &&& 0x1F)] }

/-- `while nb >= 5`, at most `rounds` times; `nb` rounds are always enough, since each takes 5 bits. -/
def drainSymbols : Nat → BitQueue → BitQueue
  | 0, q => q
  | rounds + 1, q => if 5 ≤ q.nb then drainSymbols rounds (emitSymbol q) else q

/-- One byte into the encoder (40_base32.md R96). -/
def encodeByte (q : BitQueue) (b : Byte) : BitQueue :=
  drainSymbols (q.nb + 8) { q with acc := (q.acc <<< 8) ||| b.toNat, nb := q.nb + 8 }

/-- The encoder's loop over all input bytes (40_base32.md R96). -/
def encodeBytes (bs : List Byte) : BitQueue :=
  bs.foldl encodeByte emptyQueue

/-- The final symbol, if bits are left: padded on the right with zero bits (40_base32.md R96, R99). -/
def finalSymbol (q : BitQueue) : List Byte :=
  if 0 < q.nb then [alphabet ((q.acc <<< (5 - q.nb)) &&& 0x1F)] else []

/-- The text of a byte string (40_base32.md R96). -/
def base32Encode (bs : List Byte) : List Byte :=
  (encodeBytes bs).out ++ finalSymbol (encodeBytes bs)

/-- A symbol value into the decoder: when 8 bits are buffered a byte goes out (40_base32.md R103). -/
def takeSymbol (q : BitQueue) (v : Nat) : BitQueue :=
  let acc := (q.acc <<< 5) ||| v
  let nb := q.nb + 5
  if 8 ≤ nb then
    { acc := acc &&& (2 ^ (nb - 8) - 1)
      nb := nb - 8
      out := q.out ++ [BitVec.ofNat 8 ((acc >>> (nb - 8)) &&& 0xFF)] }
  else { q with acc := acc, nb := nb }

/-- The decoder's loop over the text; none when a character is invalid (40_base32.md R103, R107). -/
def decodeText : BitQueue → List Byte → Option BitQueue
  | q, [] => some q
  | q, c :: cs =>
    if isWhitespace c then decodeText q cs
    else
      match symbolValue (upperCase c) with
      | none => none
      | some v => decodeText (takeSymbol q v) cs

/-- The bytes of a text, the trailing bits dropped (40_base32.md R103, R106). -/
def base32Decode (text : List Byte) : Option (List Byte) :=
  (decodeText emptyQueue text).map BitQueue.out

/-- `B32ENC` (40_base32.md R96). -/
def execB32enc (s : State) : Host.Outcome State Fault Refusal :=
  if s.capacity < s.alen.toNat then .next (s.raise .output .input)
  else .next (s.succeedOutput (base32Encode s.operandA))

/-- `B32DEC` (40_base32.md R103). -/
def execB32dec (s : State) : Host.Outcome State Fault Refusal :=
  if s.capacity < s.alen.toNat then .next (s.raise .output .input)
  else
    match base32Decode s.operandA with
    | none => .next (s.raise .output .encoding)
    | some bytes => .next (s.succeedOutput bytes)

end Sys2Proof.Machine
end

