-- ==== Sys2Proof/Machine/Flags.lean ====
section
/-! DEFINITION. How `MATCH` and `SCAN` come about: the comparator's accumulation over all positions
(43_compare.md R150). -/

namespace Sys2Proof.Machine

/-- The comparator's loop: `diff` collects the XOR of every pair by OR, and the pairs are counted; no exit depends on
the data (43_compare.md R150, R152). The 8-bit `diff` is the hidden state of 10_state.md R33. -/
def comparePairs : List Byte → List Byte → Byte → Nat → Byte × Nat
  | a :: as, b :: bs, diff, count => comparePairs as bs (diff ||| (a ^^^ b)) (count + 1)
  | _, _, diff, count => (diff, count)

/-- `MATCH` for two strings of one length: whether nothing was accumulated (43_compare.md R150). -/
def matchOf (as bs : List Byte) : Bool :=
  decide ((comparePairs as bs 0 0).1 = 0)

/-- `SCAN` for two strings of one length: the pairs combined (10_state.md R29; log entry 10). -/
def scanOf (as bs : List Byte) : BitVec 32 :=
  BitVec.ofNat 32 (comparePairs as bs 0 0).2

end Sys2Proof.Machine
end

