-- ==== Sys2Proof/Machine/Compare.lean ====
section
/-! DEFINITION. The timing-safe comparator, command `CMP` (43_compare.md). -/

namespace Sys2Proof.Machine

/-- `CMP` (43_compare.md R150): unequal lengths answer at once and read no byte (R153), equal lengths scan every
position. -/
def execCmp (s : State) : Host.Outcome State Fault Refusal :=
  if s.capacity < s.alen.toNat ∨ s.capacity < s.blen.toNat then .next (s.raise .compare .input)
  else if s.alen = s.blen then
    .next (s.succeedCompare (matchOf s.operandA s.operandB) (scanOf s.operandA s.operandB))
  else .next (s.succeedCompare false 0)

end Sys2Proof.Machine
end

