-- ==== Sys2Proof/Machine/Counter.lean ====
section
/-! DEFINITION. The counter encoder, command `CTRENC` (41_counter.md). -/

namespace Sys2Proof.Machine

/-- `CTRENC` (41_counter.md R120). It cannot end in error. -/
def execCtrenc (s : State) : Host.Outcome State Fault Refusal :=
  .next (s.succeedOutput (counterMessage s.ctr))

end Sys2Proof.Machine
end

