-- ==== Sys2Proof/Machine/Housekeeping.lean ====
section
/-! DEFINITION. Housekeeping, command `CLR` (44_housekeeping.md). -/

namespace Sys2Proof.Machine

/-- `CLR` (44_housekeeping.md R160). It cannot end in error. -/
def execClr (s : State) : Host.Outcome State Fault Refusal :=
  .next s.clearAll

end Sys2Proof.Machine
end

