-- ==== Sys2Proof/Machine/Truncate.lean ====
section
/-! DEFINITION. Truncation and formatting, commands `DTRUNC` and `DFMT` (42_truncate_format.md). -/

namespace Sys2Proof.Machine

/-- Dynamic truncation of the digest `ABUF[0 .. length)` (42_truncate_format.md R130). -/
def State.truncate (s : State) (length : Nat) : BitVec 31 :=
  let off := truncationOffset (s.readA (length - 1))
  truncatedCode (s.readA off) (s.readA (off + 1)) (s.readA (off + 2)) (s.readA (off + 3))

/-- `DTRUNC alg` (42_truncate_format.md R130): the selector is checked before anything is read, then the length. -/
def execDtrunc (alg : AlgSel) (s : State) : Host.Outcome State Fault Refusal :=
  match supportedHash alg with
  | none => .next (s.raise .code .config)
  | some h =>
    if s.alen.toNat = digestLength h then .next (s.succeedCode (s.truncate (digestLength h)))
    else .next (s.raise .code .input)

/-- `DFMT d` (42_truncate_format.md R135); a digit count of 0 is refused as a configuration (R139). -/
def execDfmt (digits : Nat) (s : State) : Host.Outcome State Fault Refusal :=
  if digits = 0 then .next (s.raise .output .config)
  else .next (s.succeedOutput (decimalText digits s.code.toNat))

end Sys2Proof.Machine
end

