-- ==== Sys2Proof/Machine/Dispatch.lean ====
section
/-! DEFINITION. One arm per command (30_encoding.md R72). -/

namespace Sys2Proof.Machine

def exec (i : Instr) (s : State) : Host.Outcome State Fault Refusal :=
  match i with
  | .b32enc => Sys2Proof.Machine.execB32enc s
  | .b32dec => Sys2Proof.Machine.execB32dec s
  | .ctrenc => Sys2Proof.Machine.execCtrenc s
  | .dtrunc alg => Sys2Proof.Machine.execDtrunc alg s
  | .dfmt digits => Sys2Proof.Machine.execDfmt digits s
  | .cmp => Sys2Proof.Machine.execCmp s
  | .clr => Sys2Proof.Machine.execClr s

end Sys2Proof.Machine
end

