-- ==== Sys2Proof/Machine/HostPort.lean ====
section
/-! DEFINITION. What the block does with one host move (20_memory.md R61) and with reset. -/

namespace Sys2Proof.Machine

/-- A write of a word to `CMD` (30_encoding.md R79): the command it encodes, or the illegal-command completion, which
changes `ERR` alone (R74). -/
def executeWord (w : BitVec 8) (s : State) : Host.Outcome State Fault Refusal :=
  match decode w with
  | .command i => exec i s
  | .illegal => .next (s.raise .nothing .illegal)

/-- The value a host read of a register returns, zero-extended (10_state.md R20, R22); `CMD` reads 0 (R30). -/
def State.register (s : State) : Reg → BitVec 64
  | .ctr => s.ctr
  | .code => s.code.setWidth 64
  | .alen => s.alen.setWidth 64
  | .blen => s.blen.setWidth 64
  | .olen => s.olen.setWidth 64
  | .matchFlag => (BitVec.ofBool s.matchFlag).setWidth 64
  | .err => s.err.setWidth 64
  | .scan => s.scan.setWidth 64
  | .cmd => 0

/-- The column "allowed when" of 20_memory.md R61. -/
def moveAllowed (m : HostMove) (s : State) : Bool :=
  match m with
  | .seta vs => decide (vs.length ≤ s.capacity)
  | .setb vs => decide (vs.length ≤ s.capacity)
  | .wra i _ => decide (i < s.capacity)
  | .wrb i _ => decide (i < s.capacity)
  | .setalen _ => true
  | .setblen _ => true
  | .setctr _ => true
  | .setcode _ => true
  | .cmd _ => true
  | .rd _ => true
  | .rda i => decide (i < s.capacity)
  | .rdb i => decide (i < s.capacity)
  | .rdo i => decide (i < s.outCapacity)
  | .rdout => true

/-- The column "effect" of 20_memory.md R61. A read changes nothing of the block (R56); a host write of `CODE` keeps
the value modulo `2^31` (10_state.md R22). -/
def moveEffect (m : HostMove) (s : State) : Host.Outcome State Fault Refusal :=
  match m with
  | .seta vs => .next (s.loadA vs)
  | .setb vs => .next (s.loadB vs)
  | .wra i v => .next (s.writeA i v)
  | .wrb i v => .next (s.writeB i v)
  | .setalen n => .next (s.setAlen n)
  | .setblen n => .next (s.setBlen n)
  | .setctr c => .next (s.setCtr c)
  | .setcode c => .next (s.setCode c)
  | .cmd w => executeWord w s
  | .rd r => .next (s.answer (.word (s.register r)))
  | .rda i => .next (s.answer (.byte (s.readA i)))
  | .rdb i => .next (s.answer (.byte (s.readB i)))
  | .rdo i => .next (s.answer (.byte (s.readO i)))
  | .rdout => .next (s.answer (.bytes s.result))

/-- One host move: its effect where the host has it, a refusal where it does not (20_memory.md R51, R61;
93_implementation_defined.md U7). -/
def hostMove (m : HostMove) (s : State) : Host.Outcome State Fault Refusal :=
  if moveAllowed m s then moveEffect m s else .refused .hostMoveUnavailable

/-- One input from outside. -/
def performInput (x : Input) (s : State) : Host.Outcome State Fault Refusal :=
  match x with
  | .host m => hostMove m s
  | .reset => .next s.resetBlock

end Sys2Proof.Machine
end

