-- ==== Sys2Proof/Machine/Step.lean ====
section
/-! DEFINITION. One step: the block takes the oldest input that waits (20_memory.md R59). -/

namespace Sys2Proof.Machine

/-- The block moves only in response to the outside (00_scope.md R12): with nothing asked it holds its state
(60_exceptions.md R195); otherwise the oldest input takes full effect before the next one (20_memory.md R55, R59). -/
def step (s : State) : Host.Outcome State Fault Refusal :=
  match s.inputs with
  | [] => .next s
  | x :: rest => performInput x (s.takeInput rest)

/-- The state whose very next step runs a command word: the host writes it to `CMD` next (30_encoding.md R79). The
block fetches nothing (10_state.md R27), so nothing else is needed (log entry 4). -/
def State.withFetchWord (s : State) (nbits w : Nat) : State :=
  { s with inputs := .host (.cmd (BitVec.ofNat 8 (tableWord nbits w))) :: s.inputs }

end Sys2Proof.Machine
end

