-- ==== Sys2Proof/Machine/HostFlows.lean ====
section
/-! DEFINITION. The host's flows around the commands (45_host_flows.md): HOTP, TOTP and verification as sequences of
host moves, each taken by `step`. They are the host's, not the block's (00_scope.md R4); HMAC is a parameter (D27). -/

namespace Sys2Proof.Machine

/-- The host's HMAC: any function of algorithm, key and message that returns `dlen(alg)` bytes; nothing else is
assumed of it (45_host_flows.md, 92_eei_decisions.md D27; log entry 12). -/
abbrev Hmac := (h : Hash) → (key message : List Byte) → Vector Byte (digestLength h)

/-- What a flow hands back: the state it leaves, and a value or the completion code that ended it. -/
abbrev Flow (α : Type) := Host.Outcome (State × Except (BitVec 3) α) Fault Refusal

/-- Goes on from a state reached, stops where the model stops. -/
def andThen {α β : Type} (o : Host.Outcome α Fault Refusal) (f : α → Host.Outcome β Fault Refusal) :
    Host.Outcome β Fault Refusal :=
  match o with
  | .next a => f a
  | .fault r => .fault r
  | .refused r => .refused r

/-- The host makes one move now: it is the next input the block takes (20_memory.md R59). -/
def hostDoes (m : HostMove) (s : State) : Host.Outcome State Fault Refusal :=
  step { s with inputs := .host m :: s.inputs }

/-- The number a `rd` returned (no other reply follows a `rd`). -/
def replyWord : Reply → BitVec 64
  | .noRead => 0
  | .word v => v
  | .byte v => v.setWidth 64
  | .bytes _ => 0

/-- The bytes a `rdout` returned (no other reply follows a `rdout`). -/
def replyBytes : Reply → List Byte
  | .noRead => []
  | .word _ => []
  | .byte v => [v]
  | .bytes vs => vs

/-- The host reads `ERR` and gives up with it when it is not zero (45_host_flows.md R166). -/
def checkErr {α : Type} (s : State) (go : State → Flow α) : Flow α :=
  andThen (hostDoes (.rd .err) s) fun t =>
    if replyWord t.reply = 0 then go t else .next (t, .error ((replyWord t.reply).setWidth 3))

/-- HOTP (45_host_flows.md R166), the counter reduced to 64 bits first (R173). A digit count above 15 cannot be
encoded, so the host has no such flow (93_implementation_defined.md U4). -/
def hotp (hmac : Hmac) (key : List Byte) (counter digits : Nat) (h : Hash) (s : State) : Flow (List Byte) :=
  if 15 < digits then .refused .flowUndefined
  else
    andThen (hostDoes (.setctr (BitVec.ofNat 64 counter)) s) fun s1 =>
    andThen (hostDoes (.cmd (encode .ctrenc)) s1) fun s2 =>
    andThen (hostDoes .rdout s2) fun s3 =>
    andThen (hostDoes (.seta (hmac h key (replyBytes s3.reply)).toList) s3) fun s4 =>
    andThen (hostDoes (.cmd (encode (.dtrunc (selectorOf h)))) s4) fun s5 =>
    checkErr s5 fun s6 =>
    andThen (hostDoes (.cmd (encode (.dfmt digits))) s6) fun s7 =>
    checkErr s7 fun s8 =>
    andThen (hostDoes .rdout s8) fun s9 =>
    .next (s9, .ok (replyBytes s9.reply))

/-- TOTP (45_host_flows.md R168): decode the secret, divide the time, run HOTP. A time before the epoch and a step of
0 are not defined (93_implementation_defined.md U9; log entry 13). -/
def totp (hmac : Hmac) (secret : List Byte) (timestamp : Int) (stepSeconds digits : Nat) (h : Hash) (s : State) :
    Flow (List Byte) :=
  if timestamp < 0 ∨ stepSeconds = 0 then .refused .flowUndefined
  else
    andThen (hostDoes (.seta secret) s) fun s1 =>
    andThen (hostDoes (.cmd (encode .b32dec)) s1) fun s2 =>
    checkErr s2 fun s3 =>
    andThen (hostDoes .rdout s3) fun s4 =>
    hotp hmac (replyBytes s4.reply) (timestamp.toNat / stepSeconds) digits h s4

/-- Candidate normalisation: whitespace and hyphens out (45_host_flows.md R170; the whitespace set is that of
40_base32.md R94: log entry 11). -/
def normaliseCandidate (candidate : List Byte) : List Byte :=
  candidate.filter fun c => !(c == 0x09 || c == 0x0A || c == 0x0B || c == 0x0C || c == 0x0D || c == 0x20 || c == 0x2D)

/-- The offsets `-window .. window` in that order (45_host_flows.md R169). -/
def windowOffsets (window : Nat) : List Int :=
  (List.range (2 * window + 1)).map fun (k : Nat) => (k : Int) - (window : Int)

/-- One comparison of a verification: the expected token in `BBUF`, the candidate in `ABUF` again, `CMP`, `MATCH`
(45_host_flows.md R169). -/
def compareTokens (candidate token : List Byte) (s : State) (go : State → Bool → Flow Bool) : Flow Bool :=
  andThen (hostDoes (.setb token) s) fun s1 =>
  andThen (hostDoes (.seta candidate) s1) fun s2 =>
  andThen (hostDoes (.cmd (encode .cmp)) s2) fun s3 =>
  andThen (hostDoes (.rd .matchFlag) s3) fun s4 =>
  go s4 (decide (replyWord s4.reply = 1))

/-- The verification loop: true on the first match, false when no offset matches (45_host_flows.md R169). -/
def verifyOffsets (hmac : Hmac) (secret candidate : List Byte) (timestamp : Int) (stepSeconds digits : Nat) (h : Hash) :
    List Int → State → Flow Bool
  | [], s => .next (s, .ok false)
  | i :: rest, s =>
    andThen (totp hmac secret (timestamp + i * stepSeconds) stepSeconds digits h s) fun p =>
      match p.2 with
      | .error e => .next (p.1, .error e)
      | .ok token =>
        compareTokens candidate token p.1 fun t matched =>
          if matched then .next (t, .ok true)
          else verifyOffsets hmac secret candidate timestamp stepSeconds digits h rest t

/-- `verifyTOTP` (45_host_flows.md R169, R170). -/
def verifyTotp (hmac : Hmac) (secret candidate : List Byte) (timestamp : Int) (window stepSeconds digits : Nat)
    (h : Hash) (s : State) : Flow Bool :=
  verifyOffsets hmac secret (normaliseCandidate candidate) timestamp stepSeconds digits h (windowOffsets window) s

/-! The API's entries: they take a selector and make the host's own checks before the block is used. -/

/-- The algorithm check at call time: a selector outside the supported set ends the call with `ERR_CONFIG` before any
command (45_host_flows.md R167). -/
def withSupported {α : Type} (sel : AlgSel) (s : State) (go : Hash → Flow α) : Flow α :=
  match supportedHash sel with
  | none => .next (s, .error (ErrCode.bits .config))
  | some h => go h

/-- The invalid-input check at call time: an empty argument ends the call with `ERR_INPUT` before any command
(45_host_flows.md R172). -/
def withNonEmpty {α : Type} (arguments : List (List Byte)) (s : State) (go : Flow α) : Flow α :=
  if [] ∈ arguments then .next (s, .error (ErrCode.bits .input)) else go

/-- `generateHOTP` with the checks of 45_host_flows.md R167 and R172 (an empty secret) before `ctrenc`. -/
def checkedHotp (hmac : Hmac) (key : List Byte) (counter digits : Nat) (sel : AlgSel) (s : State) : Flow (List Byte) :=
  withSupported sel s fun h => withNonEmpty [key] s (hotp hmac key counter digits h s)

/-- `generateTOTP` with the checks of 45_host_flows.md R167 and R172 (an empty secret) before the block is used. -/
def checkedTotp (hmac : Hmac) (secret : List Byte) (timestamp : Int) (stepSeconds digits : Nat) (sel : AlgSel)
    (s : State) : Flow (List Byte) :=
  withSupported sel s fun h => withNonEmpty [secret] s (totp hmac secret timestamp stepSeconds digits h s)

/-- `verifyTOTP` with the checks of 45_host_flows.md R167 and R172 (an empty secret or token) before the block is
used. -/
def checkedVerify (hmac : Hmac) (secret candidate : List Byte) (timestamp : Int) (window stepSeconds digits : Nat)
    (sel : AlgSel) (s : State) : Flow Bool :=
  withSupported sel s fun h =>
    withNonEmpty [secret, candidate] s (verifyTotp hmac secret candidate timestamp window stepSeconds digits h s)

/-! The host's defaults (45_host_flows.md R171); the block has none. -/

/-- Digits, "default 6". -/
def defaultDigits : Nat := 6
/-- Algorithm, "Default SHA-1". -/
def defaultHash : Hash := .sha1
/-- `step`, "default 30". -/
def defaultStepSeconds : Nat := 30
/-- `window`, "default 1". -/
def defaultWindow : Nat := 1
/-- Secret byte-length, "default 20". -/
def defaultSecretLength : Nat := 20

end Sys2Proof.Machine
end

