-- ==== Sys2Proof/Safety.lean ====
section
/-! DEFINITION. The terms the claims use: the invariant of the machine, the spec's closed forms and lengths, the table
of error causes, the read sets and the frames. None of it is used by the machine. -/

namespace Sys2Proof.Machine

/-! ## The invariant -/

/-- What holds of the machine between any two steps: an admitted capacity (00_scope.md R6); buffers in canonical form
and inside their capacity (20_memory.md R51); `OLEN` at most `NO` (10_state.md R25) and every byte of the result known
(R32); `SCAN` at most `N` (R29); `ERR` one of the codes 0 to 4 (R28). -/
structure Inv (s : State) : Prop where
  admitted : s.params.Admitted
  abufWf : s.abuf.wf = true
  bbufWf : s.bbuf.wf = true
  obufWf : s.obuf.wf = true
  abufWithin : s.abuf.within s.capacity = true
  bbufWithin : s.bbuf.within s.capacity = true
  obufWithin : s.obuf.within s.outCapacity = true
  olenLe : s.olen.toNat ≤ s.outCapacity
  resultKnown : ∀ i, i < s.olen.toNat → s.obuf.specified i = true
  scanLe : s.scan.toNat ≤ s.capacity
  errLe : s.err.toNat ≤ 4

/-! ## Base32 -/

/-- `ceil(8*n/5)`, the length of the text of `n` bytes (40_base32.md R98). -/
def textLength (n : Nat) : Nat :=
  (8 * n + 4) / 5

/-- `p`, the pad bits of the text of `n` bytes (40_base32.md R97, R99). -/
def padBits (n : Nat) : Nat :=
  5 * textLength n - 8 * n

/-- The number whose `n` big-endian digits of `width` bits are `f 0 .. f (n-1)` (`S` of 40_base32.md R97, `T` of
R104). -/
def bigEndian (width : Nat) (f : Nat → Nat) (n : Nat) : Nat :=
  ∑ i ∈ Finset.range n, f i * 2 ^ (width * (n - 1 - i))

/-- Bit `b` of the stream of `n` bytes, most significant bit first, 0 beyond its end (40_base32.md R93, R97). -/
def streamBit (f : Nat → Byte) (n b : Nat) : Bool :=
  decide (b < 8 * n) && (f (b / 8)).getLsbD (7 - b % 8)

/-- The text without its whitespace (40_base32.md R94). -/
def stripped (text : List Byte) : List Byte :=
  text.filter fun c => !isWhitespace c

/-- Whether a byte, once upper-cased, is one of the 32 characters (40_base32.md R107). -/
def validChar (c : Byte) : Bool :=
  (symbolValue (upperCase c)).isSome

/-- Whether every byte of a text that is not whitespace is valid (40_base32.md R107). -/
def validText (text : List Byte) : Bool :=
  (stripped text).all validChar

/-- Symbol `j` of a text: `t[j]` of 40_base32.md R104 (0 where there is none; a valid text has all of them). -/
def symbolAt (text : List Byte) (j : Nat) : Nat :=
  (((stripped text)[j]?).bind fun c => symbolValue (upperCase c)).getD 0

/-! ## Errors -/

/-- Every cause of an error completion, by command, as the table of 60_exceptions.md R182 lists them, in the priority
of R185; `ok` where none applies. -/
def completionCode (i : Instr) (s : State) : ErrCode :=
  match i with
  | .b32enc => if s.capacity < s.alen.toNat then .input else .ok
  | .b32dec =>
    if s.capacity < s.alen.toNat then .input else if validText s.operandA then .ok else .encoding
  | .ctrenc => .ok
  | .dtrunc .sha1 => if s.alen.toNat = 20 then .ok else .input
  | .dtrunc .sha256 => if s.alen.toNat = 32 then .ok else .input
  | .dtrunc .sha512 => if s.alen.toNat = 64 then .ok else .input
  | .dtrunc .alg3 => .config
  | .dfmt digits => if digits = 0 then .config else .ok
  | .cmp => if s.capacity < s.alen.toNat ∨ s.capacity < s.blen.toNat then .input else .ok
  | .clr => .ok

/-- The illegal words, as 30_encoding.md R74 counts them out: `op` 0 or 8 to 15; an argument where none is taken;
`DTRUNC` with bits 3:2 not zero. -/
abbrev IllegalWord (w : BitVec 8) : Prop :=
  w.toNat / 16 = 0 ∨ 8 ≤ w.toNat / 16 ∨
    (w.toNat / 16 ∈ [1, 2, 3, 6, 7] ∧ w.toNat % 16 ≠ 0) ∨ (w.toNat / 16 = 4 ∧ w.toNat % 16 / 4 ≠ 0)

/-- The bytes that `B32DEC` refuses, by the ranges of 40_base32.md R107. -/
abbrev ForeignByte (c : Byte) : Prop :=
  c.toNat ≤ 0x08 ∨ (0x0E ≤ c.toNat ∧ c.toNat ≤ 0x1F) ∨ (0x21 ≤ c.toNat ∧ c.toNat ≤ 0x31) ∨
    (0x38 ≤ c.toNat ∧ c.toNat ≤ 0x40) ∨ (0x5B ≤ c.toNat ∧ c.toNat ≤ 0x60) ∨ 0x7B ≤ c.toNat

/-- No byte of a buffer has a known value. -/
abbrev AllUnspecified (m : Memory) : Prop :=
  ∀ a, m.specified a = false

/-! ## Truncation and formatting -/

/-- The number that dynamic truncation reads at an offset of a digest: four bytes, the first most significant and
taken modulo 128 (42_truncate_format.md R130, where `|` is the same as `+`). -/
def codeAt (digest : Nat → Byte) (off : Nat) : Nat :=
  (digest off).toNat % 128 * 2 ^ 24 + (digest (off + 1)).toNat * 2 ^ 16 + (digest (off + 2)).toNat * 2 ^ 8
    + (digest (off + 3)).toNat

/-- Character `j` of the decimal token of `d` digits (42_truncate_format.md R136). -/
def tokenChar (code d j : Nat) : Nat :=
  0x30 + (code % 10 ^ d / 10 ^ (d - 1 - j)) % 10

/-! ## The host -/

/-- The host makes a list of moves, one after another. -/
def runMoves : List HostMove → State → Host.Outcome State Fault Refusal
  | [], s => .next s
  | m :: rest, s => andThen (hostMove m s) (runMoves rest)

/-- The byte writes that a `seta` stands for, from an index on (20_memory.md R61). -/
def byteWritesA (i : Nat) : List Byte → List HostMove
  | [] => []
  | v :: vs => .wra i v :: byteWritesA (i + 1) vs

/-- The byte writes that a `setb` stands for. -/
def byteWritesB (i : Nat) : List Byte → List HostMove
  | [] => []
  | v :: vs => .wrb i v :: byteWritesB (i + 1) vs

/-- The code that HOTP truncates out of the HMAC of a counter (45_host_flows.md R166). -/
def hotpCode (hmac : Hmac) (key : List Byte) (counter : Nat) (h : Hash) : Nat :=
  let digest := (hmac h key (counterMessage (BitVec.ofNat 64 counter))).toList
  codeAt (fun i => digest.getD i 0) ((digest.getD (digestLength h - 1) 0).toNat % 16)

/-! ## Frames -/

/-- What no command touches: the parameter, the inputs still to come, the number of the draw, the host's last
reply. -/
abbrev SameOutside (s t : State) : Prop :=
  t.params = s.params ∧ t.inputs = s.inputs ∧ t.draws = s.draws ∧ t.reply = s.reply

/-- The operand slots are the same: `CTR`, `ALEN`, `BLEN`, and both operand buffers, as data and byte by byte. -/
abbrev SameOperands (s t : State) : Prop :=
  t.ctr = s.ctr ∧ t.alen = s.alen ∧ t.blen = s.blen ∧ t.abuf = s.abuf ∧ t.bbuf = s.bbuf ∧
    (∀ a, t.readA a = s.readA a) ∧ ∀ a, t.readB a = s.readB a

/-- The output slots are the same: `OLEN` and `OBUF`, as data and byte by byte. -/
abbrev SameOutput (s t : State) : Prop :=
  t.olen = s.olen ∧ t.obuf = s.obuf ∧ ∀ a, t.readO a = s.readO a

/-- Every byte of `OBUF` at and beyond `OLEN` is unspecified (10_state.md R32). -/
abbrev UnspecifiedBeyondResult (t : State) : Prop :=
  ∀ a, t.olen.toNat ≤ a → t.obuf.specified a = false

/-! ## Read and write sets (10_state.md R36) -/

/-- Two states agree on everything a command reads (10_state.md R36, column "reads"). -/
def AgreeOnReads (i : Instr) (s t : State) : Prop :=
  match i with
  | .b32enc => s.params = t.params ∧ s.alen = t.alen ∧ ∀ a, a < s.alen.toNat → s.readA a = t.readA a
  | .b32dec => s.params = t.params ∧ s.alen = t.alen ∧ ∀ a, a < s.alen.toNat → s.readA a = t.readA a
  | .ctrenc => s.ctr = t.ctr
  | .dtrunc alg =>
    ∀ h, supportedHash alg = some h →
      s.alen = t.alen ∧ s.readA (digestLength h - 1) = t.readA (digestLength h - 1) ∧
        ∀ k, k < 4 → s.readA (truncationOffset (s.readA (digestLength h - 1)) + k)
          = t.readA (truncationOffset (s.readA (digestLength h - 1)) + k)
  | .dfmt _ => s.code = t.code
  | .cmp =>
    s.params = t.params ∧ s.alen = t.alen ∧ s.blen = t.blen ∧
      (∀ a, a < s.alen.toNat → s.readA a = t.readA a) ∧ ∀ a, a < s.blen.toNat → s.readB a = t.readB a
  | .clr => True

/-- Two states agree on everything a command writes, the completion code included (10_state.md R36, column "writes on
success"; 60_exceptions.md R184 on error). -/
def AgreeOnWrites (i : Instr) (s t : State) : Prop :=
  match i with
  | .b32enc => s.err = t.err ∧ s.olen = t.olen ∧ s.obuf = t.obuf
  | .b32dec => s.err = t.err ∧ s.olen = t.olen ∧ s.obuf = t.obuf
  | .ctrenc => s.err = t.err ∧ s.olen = t.olen ∧ s.obuf = t.obuf
  | .dtrunc _ => s.err = t.err ∧ (s.err = 0 → s.code = t.code)
  | .dfmt _ => s.err = t.err ∧ s.olen = t.olen ∧ s.obuf = t.obuf
  | .cmp => s.err = t.err ∧ s.matchFlag = t.matchFlag ∧ s.scan = t.scan
  | .clr =>
    s.err = t.err ∧ s.ctr = t.ctr ∧ s.code = t.code ∧ s.alen = t.alen ∧ s.blen = t.blen ∧ s.olen = t.olen ∧
      s.matchFlag = t.matchFlag ∧ s.scan = t.scan ∧ s.abuf = t.abuf ∧ s.bbuf = t.bbuf ∧ s.obuf = t.obuf

end Sys2Proof.Machine
end

