-- ==== Sys2Proof/Certificates/Slice0/Obligations.lean ====
section
/-! DEFINITION. The statements about the model, each a proposition and none proved here. -/

section

open Sys2Proof Sys2Proof.Machine

/-! ## Reset and the invariant -/

/-- R37: after reset every register is 0, `CMD` reads 0 and every byte of the three buffers is unspecified, whatever the
capacity. -/
def Obligations.ResetZeroesRegistersAndForgetsBuffers : Prop :=
  ∀ (p : Params) (t : State), t = State.resetWith p →
    t.ctr = 0 ∧ t.code = 0 ∧ t.alen = 0 ∧ t.blen = 0 ∧ t.olen = 0 ∧ t.matchFlag = false ∧ t.err = 0 ∧
      t.scan = 0 ∧ t.register .cmd = 0 ∧ AllUnspecified t.abuf ∧ AllUnspecified t.bbuf ∧ AllUnspecified t.obuf

/-- The reset input leaves the block of any state as reset does (70_reset_and_hazards.md R200, R201). That reset is an
input taken between steps, and that the capacity, the waiting inputs and the host's last reply survive it, is the
model's (log entry 5). -/
def Obligations.ResetInputRestoresTheResetState : Prop :=
  ∀ (s : State) (rest : List Input), s.inputs = .reset :: rest →
    ∃ t, step s = .next t ∧
      { t with draws := 0, inputs := [], reply := .noRead } = State.resetWith s.params ∧
      t.inputs = rest ∧ t.reply = s.reply

/-- The reset state meets the invariant for every capacity the spec admits, and so does the model's own reset state,
whose capacity 64 is the model's choice (log entry 1). The canonical form of the buffers that the invariant names is the
model's, no rule of the spec (log entry 3). -/
def Obligations.ResetMeetsInvariant : Prop :=
  (∀ p : Params, p.Admitted → Inv (State.resetWith p)) ∧ Inv State.reset

/-- R202: what each command gives as the first one after reset, for every admitted capacity. -/
def Obligations.FirstCommandAfterReset : Prop :=
  ∀ p : Params, p.Admitted →
    (∀ i, i = Instr.b32enc ∨ i = Instr.b32dec →
      ∃ t, exec i (State.resetWith p) = .next t ∧ t.olen = 0 ∧ t.err = 0) ∧
    (∃ t, exec .ctrenc (State.resetWith p) = .next t ∧ t.result = List.replicate 8 0 ∧ t.err = 0) ∧
    (∀ alg, ∃ t, exec (.dtrunc alg) (State.resetWith p) = .next t ∧
      t.err = if alg = .alg3 then ErrCode.bits .config else ErrCode.bits .input) ∧
    (∀ d, 1 ≤ d → d ≤ 15 → ∃ t, exec (.dfmt d) (State.resetWith p) = .next t ∧
      t.result = List.replicate d 0x30 ∧ t.err = 0) ∧
    (∃ t, exec (.dfmt 0) (State.resetWith p) = .next t ∧ t.err = ErrCode.bits .config) ∧
    ∃ t, exec .cmp (State.resetWith p) = .next t ∧ t.matchFlag = true ∧ t.scan = 0 ∧ t.err = 0

/-- The invariant is kept by every step that answers a next state, from every state that meets it. Of its clauses the
capacity, the ranges of `OLEN`, `SCAN` and `ERR` and the indexes below the capacity are the spec's; the canonical form of
the buffers is the model's, no rule of the spec (log entry 3). -/
def Obligations.StepKeepsInvariant : Prop :=
  ∀ s t : State, Inv s → step s = .next t → Inv t

/-! ## The step and the host's moves -/

/-- A host write of a word to `CMD` performs the command the word decodes to, in the state with that input taken, or the
illegal-command completion (30_encoding.md R79). From any state, whatever waits, a placed word is such a write and the
very next input (log entry 4); taking an input starts a new draw of unspecified bytes (`draws` + 1: log entry 2). -/
def Obligations.StepRunsTheDecodedCommand : Prop :=
  (∀ (s : State) (w : BitVec 8) (rest : List Input), s.inputs = .host (.cmd w) :: rest →
    (∀ i, decode w = .command i → step s = exec i { s with inputs := rest, draws := s.draws + 1 }) ∧
    (decode w = .illegal →
      step s = .next { s with inputs := rest, draws := s.draws + 1, err := ErrCode.bits .illegal })) ∧
  ∀ (s : State) (n : Nat), n < 256 →
    (∀ i, decode (BitVec.ofNat 8 n) = .command i →
      step (s.withFetchWord 8 n) = exec i { s with draws := s.draws + 1 }) ∧
    (decode (BitVec.ofNat 8 n) = .illegal →
      step (s.withFetchWord 8 n) = .next { s with draws := s.draws + 1, err := ErrCode.bits .illegal })

/-- Moves take effect one at a time, in the order the host issues them: a step is the oldest waiting input, a host move
or reset, performed whole, with the rest still to come; with none waiting the block holds its state (20_memory.md R55, R59; 60_exceptions.md R195). The queue of inputs and the number of the draw are the model's (log
entries 2 and 4). -/
def Obligations.StepTakesTheOldestInput : Prop :=
  (∀ s : State, s.inputs = [] → step s = .next s) ∧
  ∀ (s : State) (x : Input) (rest : List Input), s.inputs = x :: rest →
    step s = performInput x (s.takeInput rest) ∧
    (∀ m, x = .host m → step s = hostMove m { s with inputs := rest, draws := s.draws + 1 }) ∧
    (x = .reset → step s = .next ({ s with inputs := rest, draws := s.draws + 1 } : State).resetBlock) ∧
    ∀ t, step s = .next t → t.inputs = rest ∧ t.params = s.params ∧ t.draws = s.draws + 1

/-- The block has a step for every command word and every move the host has; the one stop is a move the host does not
have, and no step ever faults (20_memory.md R51, R61, R63; 93_implementation_defined.md U7; log entry 8). -/
def Obligations.OnlyMissingMovesAreRefused : Prop :=
  ∀ (s : State) (x : Input) (rest : List Input), s.inputs = x :: rest →
    (((∃ t, step s = .next t) ↔ ∀ m, x = .host m → moveAllowed m s = true) ∧
      ∀ m, x = .host m → moveAllowed m s = false → step s = .refused .hostMoveUnavailable)

/-- A read changes nothing of the block, and hands back the register (`CMD` as 0), the byte or the result it names
(20_memory.md R56, R61; 10_state.md R22, R30). The 64-bit reply is the model's (log entry 14). -/
def Obligations.HostReadsChangeNothing : Prop :=
  ∀ s : State,
    (∀ r, hostMove (.rd r) s = .next (s.answer (.word (s.register r)))) ∧
    (∀ i, i < s.capacity → hostMove (.rda i) s = .next (s.answer (.byte (s.readA i))) ∧
      hostMove (.rdb i) s = .next (s.answer (.byte (s.readB i)))) ∧
    (∀ i, i < s.outCapacity → hostMove (.rdo i) s = .next (s.answer (.byte (s.readO i)))) ∧
    hostMove .rdout s = .next (s.answer (.bytes ((List.range s.olen.toNat).map s.readO))) ∧
    (s.register .code).toNat = s.code.toNat ∧ (s.register .code).toNat < 2 ^ 31 ∧ s.register .cmd = 0 ∧
    (s.register .ctr).toNat = s.ctr.toNat ∧ (s.register .alen).toNat = s.alen.toNat ∧
    (s.register .blen).toNat = s.blen.toNat ∧ (s.register .olen).toNat = s.olen.toNat ∧
    (s.register .scan).toNat = s.scan.toNat ∧ (s.register .err).toNat = s.err.toNat ∧
    (s.register .matchFlag).toNat = s.matchFlag.toNat

/-- The host's writes: one byte of an operand buffer, every other byte left; a whole register; `CODE` modulo `2^31`
(20_memory.md R54, R61; 10_state.md R22). -/
def Obligations.HostWritesTakeEffect : Prop :=
  ∀ s : State,
    (∀ i v, i < s.capacity → ∃ t, hostMove (.wra i v) s = .next t ∧ t = { s with abuf := t.abuf } ∧
      t.readA i = v ∧ ∀ a, a ≠ i → t.readA a = s.readA a ∧ t.abuf.specified a = s.abuf.specified a) ∧
    (∀ i v, i < s.capacity → ∃ t, hostMove (.wrb i v) s = .next t ∧ t = { s with bbuf := t.bbuf } ∧
      t.readB i = v ∧ ∀ a, a ≠ i → t.readB a = s.readB a ∧ t.bbuf.specified a = s.bbuf.specified a) ∧
    (∀ n, hostMove (.setalen n) s = .next { s with alen := n }) ∧
    (∀ n, hostMove (.setblen n) s = .next { s with blen := n }) ∧
    (∀ c, hostMove (.setctr c) s = .next { s with ctr := c }) ∧
    ∀ c, ∃ t, hostMove (.setcode c) s = .next t ∧ t = { s with code := t.code } ∧
      t.code.toNat = c.toNat % 2 ^ 31

/-- A string move is its byte writes and its length write, and the length may as well be written first
(20_memory.md R61: "separate moves, in any order"). The model performs the string move at once (log entry 7). -/
def Obligations.StringMoveIsItsSeparateMoves : Prop :=
  ∀ (s : State) (vs : List Byte), vs.length ≤ s.capacity →
    hostMove (.seta vs) s = runMoves (byteWritesA 0 vs ++ [.setalen (BitVec.ofNat 32 vs.length)]) s ∧
    hostMove (.seta vs) s = runMoves (.setalen (BitVec.ofNat 32 vs.length) :: byteWritesA 0 vs) s ∧
    hostMove (.setb vs) s = runMoves (byteWritesB 0 vs ++ [.setblen (BitVec.ofNat 32 vs.length)]) s ∧
    hostMove (.setb vs) s = runMoves (.setblen (BitVec.ofNat 32 vs.length) :: byteWritesB 0 vs) s

/-- After a string move the operand is the string, and every byte beyond it is as before (20_memory.md R61). -/
def Obligations.StringMoveLoadsTheOperand : Prop :=
  ∀ (s : State) (vs : List Byte), s.params.Admitted → vs.length ≤ s.capacity →
    (∃ t, hostMove (.seta vs) s = .next t ∧ t.operandA = vs ∧ t.alen.toNat = vs.length ∧
      (∀ a, vs.length ≤ a → t.readA a = s.readA a) ∧ t.operandB = s.operandB ∧ SameOutput s t) ∧
    ∃ t, hostMove (.setb vs) s = .next t ∧ t.operandB = vs ∧ t.blen.toNat = vs.length ∧
      (∀ a, vs.length ≤ a → t.readB a = s.readB a) ∧ t.operandA = s.operandA ∧ SameOutput s t

/-! ## Encoding -/

/-- Words written out from 30_encoding.md R72, R73 and R77, and what they decode to. -/
def Obligations.SpecWordsDecode : Prop :=
  decode 0b00010000 = .command .b32enc ∧ decode 0b00100000 = .command .b32dec ∧
  decode 0b00110000 = .command .ctrenc ∧ decode 0b01000000 = .command (.dtrunc .sha1) ∧
  decode 0b01000001 = .command (.dtrunc .sha256) ∧ decode 0b01000010 = .command (.dtrunc .sha512) ∧
  decode 0b01000011 = .command (.dtrunc .alg3) ∧ decode 0b01010110 = .command (.dfmt 6) ∧
  decode 0b01011000 = .command (.dfmt 8) ∧ decode 0b01010000 = .command (.dfmt 0) ∧
  decode 0b01100000 = .command .cmp ∧ decode 0b01110000 = .command .clr

/-- R72: the seven rows; the decoder reads a command from a word exactly when the command's row selects the word, with
the argument in its bits; at most one row selects a word, and 25 words are selected. -/
def Obligations.DecoderFollowsTheOpcodeMap : Prop :=
  (opcodeMap.map fun r => (r.mnemonic, r.value, r.mask)) =
    [("B32ENC", 0x10, 0xFF), ("B32DEC", 0x20, 0xFF), ("CTRENC", 0x30, 0xFF), ("DTRUNC", 0x40, 0xFC),
      ("DFMT", 0x50, 0xF0), ("CMP", 0x60, 0xFF), ("CLR", 0x70, 0xFF)] ∧
  ((List.range 256).filter fun n => opcodeMap.any (·.selects (BitVec.ofNat 8 n))).length = 25 ∧
  (∀ (w : BitVec 8) (alg : AlgSel), decode w = .command (.dtrunc alg) → w.toNat % 4 = alg.bits.toNat) ∧
  (∀ (w : BitVec 8) (d : Nat), decode w = .command (.dfmt d) → w.toNat % 16 = d) ∧
  ∀ w : BitVec 8,
    (∀ i, decode w = .command i → i.row ∈ opcodeMap ∧ i.row.selects w = true) ∧
    (decode w = .illegal ↔ ∀ r ∈ opcodeMap, r.selects w = false) ∧
    ∀ r ∈ opcodeMap, ∀ r' ∈ opcodeMap, r.selects w = true → r'.selects w = true → r = r'

/-- Decoding and encoding agree in both directions: every well-formed command comes back from its word, with every
operand at every value its field admits, and every word that decodes is the word of a well-formed command. -/
def Obligations.DecodeInvertsEncode : Prop :=
  (∀ i : Instr, i.wellFormed = true → decode (encode i) = .command i) ∧
  ∀ (w : BitVec 8) (i : Instr), decode w = .command i → i.wellFormed = true ∧ encode i = w

/-- R74: the words that match no row of the opcode map, counted out, are the illegal ones, and writing one to `CMD`
sets `ERR` to `ERR_ILLEGAL` and changes no other register and no buffer. -/
def Obligations.IllegalWordChangesOnlyErr : Prop :=
  (∀ w : BitVec 8, (decode w = .illegal ↔ IllegalWord w) ∧ (IllegalWord w ↔ ∀ r ∈ opcodeMap, r.selects w = false)) ∧
  ((List.range 256).filter fun n => decide (n / 16 = 0 ∨ 8 ≤ n / 16)).length = 144 ∧
  ((List.range 256).filter fun n => decide (n / 16 ∈ [1, 2, 3, 6, 7] ∧ n % 16 ≠ 0)).length = 75 ∧
  ((List.range 256).filter fun n => decide (n / 16 = 4 ∧ n % 16 / 4 ≠ 0)).length = 12 ∧
  ((List.range 256).filter fun n => decide (IllegalWord (BitVec.ofNat 8 n))).length = 231 ∧
  IllegalWord 0x00 ∧
  ∀ (s : State) (w : BitVec 8), IllegalWord w →
    ∃ t, hostMove (.cmd w) s = .next t ∧ t.err = 4 ∧ t = { s with err := t.err } ∧ SameOutside s t ∧
      SameOperands s t ∧ SameOutput s t

/-! ## Completions -/

/-- R182: every command completes, in every state, with the code of a cause that the table lists and that holds (the
first in the order of R185), and with 0 when none does; an illegal word always with 4. -/
def Obligations.CompletionCodeIsTheListedCause : Prop :=
  (∀ (i : Instr) (s : State), ∃ t, exec i s = .next t ∧ t.err = (completionCode i s).bits) ∧
  ∀ (w : BitVec 8) (s : State), decode w = .illegal → ∃ t, executeWord w s = .next t ∧ t.err = 4

/-- R184: what an error completion leaves of each command's result slot, and that it changes nothing else. -/
def Obligations.ErrorCompletionWithholdsTheResult : Prop :=
  (∀ (i : Instr) (s t : State), exec i s = .next t → t.err ≠ 0 →
    SameOutside s t ∧ SameOperands s t ∧
    ((i = .b32enc ∨ i = .b32dec ∨ ∃ d, i = .dfmt d) →
      t.olen = 0 ∧ AllUnspecified t.obuf ∧ t.code = s.code ∧ t.matchFlag = s.matchFlag ∧ t.scan = s.scan) ∧
    ((∃ alg, i = .dtrunc alg) →
      t.code = s.code ∧ SameOutput s t ∧ t.matchFlag = s.matchFlag ∧ t.scan = s.scan) ∧
    (i = .cmp → t.matchFlag = false ∧ t.scan = 0 ∧ t.code = s.code ∧ SameOutput s t) ∧
    i ≠ .ctrenc ∧ i ≠ .clr) ∧
  ∀ (w : BitVec 8) (s : State), decode w = .illegal → executeWord w s = .next { s with err := 4 }

/-- Every command overwrites `ERR`, whatever it held, and only with the codes 0 to 4 (10_state.md R28,
60_exceptions.md R181, R186). -/
def Obligations.ErrIsNeverSticky : Prop :=
  ∀ (w : BitVec 8) (s : State) (e : BitVec 3),
    executeWord w { s with err := e } = executeWord w s ∧
      ∀ t, executeWord w s = .next t → t.err.toNat ≤ 4

/-! ## Frames, write rights and read sets -/

/-- The frame of the commands that write `OBUF`: the operands, `CODE`, `MATCH` and `SCAN` are left, and every byte of
`OBUF` at and beyond `OLEN` is unspecified (10_state.md R32, R36; 60_exceptions.md R183, R184). -/
def Obligations.OutputCommandsFrame : Prop :=
  ∀ (i : Instr) (s t : State), s.params.Admitted → i.wellFormed = true →
    (i = .b32enc ∨ i = .b32dec ∨ i = .ctrenc ∨ ∃ d, i = .dfmt d) → exec i s = .next t →
    SameOutside s t ∧ SameOperands s t ∧ t.code = s.code ∧ t.matchFlag = s.matchFlag ∧ t.scan = s.scan ∧
      UnspecifiedBeyondResult t

/-- The frame of `DTRUNC`: everything but `CODE` and `ERR` is left, every byte of the three buffers included. -/
def Obligations.DtruncFrame : Prop :=
  ∀ (alg : AlgSel) (s t : State), exec (.dtrunc alg) s = .next t →
    SameOutside s t ∧ SameOperands s t ∧ SameOutput s t ∧ t.matchFlag = s.matchFlag ∧ t.scan = s.scan

/-- The frame of `CMP`: everything but `MATCH`, `SCAN` and `ERR` is left, every byte of the three buffers
included. -/
def Obligations.CmpFrame : Prop :=
  ∀ s t : State, exec .cmp s = .next t →
    SameOutside s t ∧ SameOperands s t ∧ SameOutput s t ∧ t.code = s.code

/-- Who writes what (10_state.md R20, R36; 44_housekeeping.md R160): no word but `CLR` changes an operand register
or an operand buffer; only the words of the writers named in R20 change `CODE`, `OLEN` and `OBUF`, `MATCH` and
`SCAN`. -/
def Obligations.OnlyTheListedCommandsWrite : Prop :=
  ∀ (w : BitVec 8) (s t : State), executeWord w s = .next t → w ≠ 0x70 →
    SameOutside s t ∧ SameOperands s t ∧
    (w ∉ [0x40, 0x41, 0x42] → t.code = s.code) ∧
    (w ∉ [0x10, 0x20, 0x30] → w &&& 0xF0 ≠ 0x50 → SameOutput s t) ∧
    (w ≠ 0x60 → t.matchFlag = s.matchFlag ∧ t.scan = s.scan)

/-- What a command writes is a function of what R36 says it reads (00_scope.md R5): two states that agree there end up
agreeing on everything the command writes. -/
def Obligations.ResultsDependOnlyOnTheReadSet : Prop :=
  ∀ (i : Instr) (s t s' t' : State), AgreeOnReads i s t → exec i s = .next s' → exec i t = .next t' →
    AgreeOnWrites i s' t'

/-- Unspecified bytes matter only where an operand covers them (70_reset_and_hazards.md R206): with known operands a
command does the same whatever the unspecified bytes of this draw are (draws: log entry 2). -/
def Obligations.KnownOperandsHideTheDraw : Prop :=
  ∀ (i : Instr) (s s' t' : State) (n : Nat),
    (∀ a, a < s.alen.toNat → s.abuf.specified a = true) → (∀ a, a < s.blen.toNat → s.bbuf.specified a = true) →
    exec i s = .next s' → exec i { s with draws := n } = .next t' → t' = { s' with draws := n }

/-! ## The Base32 codec -/

/-- R92: the 32 characters in order, and that `VAL` is the inverse of `ALPHA` on them and `none` elsewhere. -/
def Obligations.AlphabetIsPositional : Prop :=
  (List.range 32).map alphabet = "ABCDEFGHIJKLMNOPQRSTUVWXYZ234567".toList.map (fun c => BitVec.ofNat 8 c.toNat) ∧
  (∀ v, v < 32 → symbolValue (alphabet v) = some v) ∧
  ∀ (c : Byte) (v : Nat), symbolValue c = some v → v < 32 ∧ alphabet v = c

/-- R97: `B32ENC` of an operand that fits completes, and the text is the closed form: `OLEN` is `m`, and character `j`
is `ALPHA` of five bits of `S` shifted left by the pad count; equivalently of the stream bits `5j .. 5j+4`, the bits
beyond the stream taken as 0. -/
def Obligations.B32encMatchesClosedForm : Prop :=
  ∀ s : State, s.params.Admitted → s.alen.toNat ≤ s.capacity →
    ∃ t, exec .b32enc s = .next t ∧ t.err = 0 ∧ t.olen.toNat = textLength s.alen.toNat ∧
      ∀ j, j < textLength s.alen.toNat →
        t.readO j = alphabet
          ((bigEndian 8 (fun i => (s.readA i).toNat) s.alen.toNat * 2 ^ padBits s.alen.toNat
            / 2 ^ (5 * (textLength s.alen.toNat - 1 - j))) % 32) ∧
        t.readO j = alphabet (∑ b ∈ Finset.range 5, (streamBit s.readA s.alen.toNat (5 * j + b)).toNat * 2 ^ (4 - b))

/-- R98: the length of the encoding, `ceil(ALEN * 8 / 5)`, with the table by residue of `ALEN` modulo 5, and the text
lengths that never occur. -/
def Obligations.B32encLength : Prop :=
  ∀ s : State, s.params.Admitted → s.alen.toNat ≤ s.capacity →
    ∃ t, exec .b32enc s = .next t ∧ t.olen.toNat = (s.alen.toNat * 8 + 4) / 5 ∧
      t.olen.toNat = 8 * (s.alen.toNat / 5) + [0, 2, 4, 5, 7].getD (s.alen.toNat % 5) 0 ∧
      5 * t.olen.toNat - 8 * s.alen.toNat = [0, 2, 4, 1, 3].getD (s.alen.toNat % 5) 0 ∧
      t.olen.toNat % 8 ∈ [0, 2, 4, 5, 7] ∧ t.olen.toNat ≤ s.outCapacity

/-- R100: every byte of an encoding is one of the 32 codes of R92, so never a lower-case letter, `=` or whitespace. -/
def Obligations.B32encEmitsOnlyTheAlphabet : Prop :=
  ∀ s : State, s.params.Admitted → s.alen.toNat ≤ s.capacity →
    ∃ t, exec .b32enc s = .next t ∧ ∀ j, j < t.olen.toNat →
      ((0x41 ≤ (t.readO j).toNat ∧ (t.readO j).toNat ≤ 0x5A) ∨ (0x32 ≤ (t.readO j).toNat ∧ (t.readO j).toNat ≤ 0x37)) ∧
        isWhitespace (t.readO j) = false ∧ t.readO j ≠ 0x3D

/-- The hidden accumulator never outgrows 12 bits, nor its bit count 12 (40_base32.md R96, R103; 10_state.md R33): the
state of both loops after any input, and with one more byte or symbol taken in. They are working values of a command
here, not state between steps (log entry 9). -/
def Obligations.AccumulatorStaysInTwelveBits : Prop :=
  (∀ (bs : List Byte) (b : Byte),
    (encodeBytes bs).nb = 8 * bs.length % 5 ∧ (encodeBytes bs).acc < 2 ^ (encodeBytes bs).nb ∧
      (encodeBytes bs).nb + 8 ≤ 12 ∧ ((encodeBytes bs).acc <<< 8) ||| b.toNat < 2 ^ 12) ∧
  ∀ (text : List Byte) (q : BitQueue) (v : Nat), decodeText emptyQueue text = some q → v < 32 →
    q.nb = 5 * (stripped text).length % 8 ∧ q.acc < 2 ^ q.nb ∧ q.nb + 5 ≤ 12 ∧ (q.acc <<< 5) ||| v < 2 ^ 12

/-- R104: `B32DEC` of a valid text that fits completes, and the result is the closed form over the symbols left
after stripping: `OLEN` is `floor(5n/8)`, byte `i` is eight bits of `T` with its last `q` bits dropped. -/
def Obligations.B32decMatchesClosedForm : Prop :=
  ∀ s : State, s.params.Admitted → s.alen.toNat ≤ s.capacity → validText s.operandA = true →
    ∃ t, exec .b32dec s = .next t ∧ t.err = 0 ∧ t.olen.toNat = 5 * (stripped s.operandA).length / 8 ∧
      ∀ i, i < 5 * (stripped s.operandA).length / 8 →
        (t.readO i).toNat
          = bigEndian 5 (symbolAt s.operandA) (stripped s.operandA).length
              / 2 ^ (5 * (stripped s.operandA).length % 8)
              / 2 ^ (8 * (5 * (stripped s.operandA).length / 8 - 1 - i)) % 256

/-- R105: the length of the decoding, `floor(n * 5 / 8)` of the characters that are not whitespace, with the table by
residue of that number modulo 8. -/
def Obligations.B32decLength : Prop :=
  ∀ (s : State) (n : Nat), s.params.Admitted → s.alen.toNat ≤ s.capacity → validText s.operandA = true →
    n = (stripped s.operandA).length →
    ∃ t, exec .b32dec s = .next t ∧ t.olen.toNat = n * 5 / 8 ∧
      t.olen.toNat = 5 * (n / 8) + [0, 0, 1, 1, 2, 3, 3, 4].getD (n % 8) 0 ∧
      5 * n - 8 * t.olen.toNat = [0, 5, 2, 7, 4, 1, 6, 3].getD (n % 8) 0

/-- Trailing bits are dropped, whatever they are (40_base32.md R106): two valid texts of one stripped length whose
numbers agree above the dropped bits both decode, without error, to the same bytes. -/
def Obligations.TrailingBitsAreDropped : Prop :=
  ∀ (s t : State) (n : Nat), s.params.Admitted → t.params.Admitted →
    s.alen.toNat ≤ s.capacity → t.alen.toNat ≤ t.capacity →
    validText s.operandA = true → validText t.operandA = true →
    n = (stripped s.operandA).length → n = (stripped t.operandA).length →
    bigEndian 5 (symbolAt s.operandA) n / 2 ^ (5 * n % 8) = bigEndian 5 (symbolAt t.operandA) n / 2 ^ (5 * n % 8) →
    ∃ s' t', exec .b32dec s = .next s' ∧ exec .b32dec t = .next t' ∧ s'.err = 0 ∧ t'.err = 0 ∧ s'.result = t'.result

/-- R107: the bytes that are foreign, and that one foreign byte anywhere in the operand, and nothing else, makes
`B32DEC` end with `ERR_ENCODING` and no result. -/
def Obligations.ForeignByteFailsTheDecoding : Prop :=
  (∀ c : Byte, ForeignByte c ↔ isWhitespace c = false ∧ validChar c = false) ∧
  ((List.range 256).filter fun n => validChar (BitVec.ofNat 8 n)).length = 58 ∧
  ((List.range 256).filter fun n => isWhitespace (BitVec.ofNat 8 n)).length = 6 ∧
  ((List.range 256).filter fun n => decide (ForeignByte (BitVec.ofNat 8 n))).length = 192 ∧
  ∀ s : State, s.alen.toNat ≤ s.capacity →
    ∃ t, exec .b32dec s = .next t ∧
      (t.err = ErrCode.bits .encoding ↔ ∃ a, a < s.alen.toNat ∧ ForeignByte (s.readA a)) ∧
      (t.err = 0 ↔ ∀ a, a < s.alen.toNat → ¬ ForeignByte (s.readA a)) ∧
      (t.err = ErrCode.bits .encoding → t.olen = 0 ∧ AllUnspecified t.obuf)

/-- Whitespace contributes nothing and case does not matter (40_base32.md R94, R95): texts with the same upper-cased
symbols decode to the same result. -/
def Obligations.WhitespaceAndCaseAreIgnored : Prop :=
  ∀ s t : State, s.alen.toNat ≤ s.capacity → t.alen.toNat ≤ t.capacity →
    (stripped s.operandA).map upperCase = (stripped t.operandA).map upperCase →
    ∃ s' t', exec .b32dec s = .next s' ∧ exec .b32dec t = .next t' ∧
      s'.err = t'.err ∧ s'.olen = t'.olen ∧ s'.obuf = t'.obuf

/-- R108: encode, let the host copy the text back as the operand, decode: the original bytes come back. -/
def Obligations.Base32RoundTrip : Prop :=
  ∀ s : State, s.params.Admitted → s.alen.toNat ≤ 5 * s.capacity / 8 →
    ∃ t u v, exec .b32enc s = .next t ∧ hostMove (.seta t.result) t = .next u ∧ exec .b32dec u = .next v ∧
      v.err = 0 ∧ v.result = s.operandA

/-- Encoding is one-to-one (40_base32.md R109): operands with the same text are the same. -/
def Obligations.EncodingIsOneToOne : Prop :=
  ∀ s t s' t' : State, s.params.Admitted → t.params.Admitted →
    s.alen.toNat ≤ s.capacity → t.alen.toNat ≤ t.capacity →
    exec .b32enc s = .next s' → exec .b32enc t = .next t' → s'.result = t'.result → s.operandA = t.operandA

/-! ## The counter encoder -/

/-- R120: `CTRENC`, word 0x30, completes in every state, with the eight bytes of `CTR`, most significant first, `OLEN` 8,
`ERR` 0, everything else left and `OBUF` unspecified beyond. -/
def Obligations.CtrencLaysOutTheCounter : Prop :=
  ∀ s : State, ∃ t, exec .ctrenc s = .next t ∧ hostMove (.cmd 0x30) s = .next t ∧ t.err = 0 ∧ t.olen = 8 ∧
    (∀ i, i < 8 → t.readO i = s.ctr.extractLsb' (8 * (7 - i)) 8) ∧
    SameOutside s t ∧ SameOperands s t ∧ t.code = s.code ∧ t.matchFlag = s.matchFlag ∧ t.scan = s.scan ∧
    UnspecifiedBeyondResult t

/-- R121: the encoding is a bijection between the 64-bit values and the 8-byte sequences: the counter is the sum of
its bytes, and every 8-byte sequence is the message of exactly one counter. -/
def Obligations.CounterMessageIsABijection : Prop :=
  (∀ s : State, ∃ t, exec .ctrenc s = .next t ∧
    s.ctr.toNat = ∑ i ∈ Finset.range 8, (t.readO i).toNat * 2 ^ (8 * (7 - i))) ∧
  ∀ bytes : List Byte, bytes.length = 8 →
    ∃! c : BitVec 64, ∀ s : State, s.ctr = c → ∃ t, exec .ctrenc s = .next t ∧ t.result = bytes

/-! ## Truncation and formatting -/

/-- R130: `DTRUNC`, words 0x40 to 0x43, of a digest of the selected algorithm's length completes with the 31-bit code at
the offset that the digest's last nibble names; selector 3 ends with `ERR_CONFIG` and a wrong length with `ERR_INPUT`,
`CODE` unchanged. -/
def Obligations.DtruncExtractsTheCode : Prop :=
  ∀ s : State,
    (∀ alg len w, (alg, len, w) ∈ [(AlgSel.sha1, 20, 0x40), (AlgSel.sha256, 32, 0x41), (AlgSel.sha512, 64, 0x42)] →
      hostMove (.cmd w) s = exec (.dtrunc alg) s ∧
      (s.alen.toNat = len → ∃ t, exec (.dtrunc alg) s = .next t ∧ t.err = 0 ∧
        t.code.toNat = codeAt s.readA ((s.readA (len - 1)).toNat % 16) ∧
        t = { s with code := t.code, err := t.err }) ∧
      (s.alen.toNat ≠ len → exec (.dtrunc alg) s = .next { s with err := ErrCode.bits .input })) ∧
    hostMove (.cmd 0x43) s = exec (.dtrunc .alg3) s ∧
    exec (.dtrunc .alg3) s = .next { s with err := ErrCode.bits .config }

/-- R132: the code depends on five digest bytes, and of these neither on the high nibble of the last byte nor on bit 7
of the first selected one. -/
def Obligations.CodeDependsOnFiveBytes : Prop :=
  ∀ (alg : AlgSel) (h : Hash) (s t : State), supportedHash alg = some h →
    s.alen.toNat = digestLength h → t.alen.toNat = digestLength h →
    (s.readA (digestLength h - 1)).toNat % 16 = (t.readA (digestLength h - 1)).toNat % 16 →
    (∀ off, off = (s.readA (digestLength h - 1)).toNat % 16 →
      (s.readA off).toNat % 128 = (t.readA off).toNat % 128 ∧ s.readA (off + 1) = t.readA (off + 1) ∧
        s.readA (off + 2) = t.readA (off + 2) ∧ s.readA (off + 3) = t.readA (off + 3)) →
    ∃ s' t', exec (.dtrunc alg) s = .next s' ∧ exec (.dtrunc alg) t = .next t' ∧
      s'.code = t'.code ∧ s'.err = 0 ∧ t'.err = 0

/-- R136: `DFMT d` completes with the closed form: `d` characters, character `j` the digit of weight `10^(d-1-j)` of
`CODE mod 10^d`, most significant first; the same as its decimal digits with zeros put in front, which are never more
than `d`. -/
def Obligations.DfmtMatchesClosedForm : Prop :=
  ∀ (s : State) (d : Nat), 1 ≤ d → d ≤ 15 →
    ∃ t, exec (.dfmt d) s = .next t ∧ t.err = 0 ∧ t.olen.toNat = d ∧
      (∀ j, j < d → (t.readO j).toNat = 0x30 + (s.code.toNat % 10 ^ d / 10 ^ (d - 1 - j)) % 10) ∧
      (Nat.digits 10 (s.code.toNat % 10 ^ d)).length ≤ d ∧
      t.result =
        ((Nat.digits 10 (s.code.toNat % 10 ^ d)).reverse.leftpad d 0).map fun x => BitVec.ofNat 8 (0x30 + x)

/-- R138: after a successful `DFMT d`, `OLEN` is `d` and every byte of the result is a decimal digit. -/
def Obligations.DfmtDigitInvariant : Prop :=
  ∀ (s t : State) (d : Nat), d ≤ 15 → exec (.dfmt d) s = .next t → t.err = 0 →
    t.olen.toNat = d ∧ ∀ j, j < d → 0x30 ≤ (t.readO j).toNat ∧ (t.readO j).toNat ≤ 0x39

/-- R137: from 10 digits on nothing is reduced: the last ten characters are those of `DFMT 10`, what stands before
them is zeros, and with 10 digits the first character is `0`, `1` or `2`. -/
def Obligations.DfmtLargeDigitCounts : Prop :=
  ∀ (s : State) (d : Nat), 10 ≤ d → d ≤ 15 →
    s.code.toNat % 10 ^ d = s.code.toNat ∧
    ∃ t u, exec (.dfmt d) s = .next t ∧ exec (.dfmt 10) s = .next u ∧ t.err = 0 ∧ u.err = 0 ∧
      t.result = List.replicate (d - 10) 0x30 ++ u.result ∧ u.result.length = 10 ∧
      (u.readO 0 = 0x30 ∨ u.readO 0 = 0x31 ∨ u.readO 0 = 0x32)

/-- R139: a digit count of 0 is rejected with `ERR_CONFIG`. -/
def Obligations.DfmtZeroIsRejected : Prop :=
  ∀ s : State, ∃ t, exec (.dfmt 0) s = .next t ∧ t.err = ErrCode.bits .config ∧ t.olen = 0 ∧ AllUnspecified t.obuf ∧
    t = { s with err := t.err, olen := t.olen, obuf := t.obuf }

/-! ## The comparator -/

/-- R150, R151: `CMP`, word 0x60, completes in every state; with lengths that fit `MATCH` is plain equality of the two strings and
`SCAN` the common length, or 0 when the lengths differ; with one that does not, `ERR_INPUT`, `MATCH` 0 and `SCAN` 0. -/
def Obligations.CmpDecidesEquality : Prop :=
  ∀ s : State, ∃ t, exec .cmp s = .next t ∧ hostMove (.cmd 0x60) s = .next t ∧
    t = { s with matchFlag := t.matchFlag, scan := t.scan, err := t.err } ∧
    (s.alen.toNat ≤ s.capacity ∧ s.blen.toNat ≤ s.capacity →
      t.err = 0 ∧ (t.matchFlag = true ↔ s.alen = s.blen ∧ ∀ i, i < s.alen.toNat → s.readA i = s.readB i) ∧
        t.scan = if s.alen = s.blen then s.alen else 0) ∧
    (s.capacity < s.alen.toNat ∨ s.capacity < s.blen.toNat →
      t.err = ErrCode.bits .input ∧ t.matchFlag = false ∧ t.scan = 0)

/-- The structural timing property (43_compare.md R152, R153): `SCAN` is a function of the two lengths, whatever the
contents of the buffers, and with equal lengths it is the whole length. -/
def Obligations.ScanDependsOnLengthsOnly : Prop :=
  ∀ s t s' t' : State, s.params = t.params → s.alen = t.alen → s.blen = t.blen →
    exec .cmp s = .next s' → exec .cmp t = .next t' →
    s'.scan = t'.scan ∧ (s.alen.toNat ≤ s.capacity → s.alen = s.blen → s'.scan = s.alen)

/-- `CMP` is symmetric (43_compare.md R150, R154): swapping the strings changes neither `MATCH` nor `SCAN`. -/
def Obligations.CmpIsSymmetric : Prop :=
  ∀ s t s' t' : State, s.params = t.params → s.alen = t.blen → s.blen = t.alen →
    s.operandA = t.operandB → s.operandB = t.operandA →
    exec .cmp s = .next s' → exec .cmp t = .next t' →
    s'.matchFlag = t'.matchFlag ∧ s'.scan = t'.scan ∧ s'.err = t'.err

/-! ## Housekeeping -/

/-- R160: `CLR`, word 0x70, completes in every state; every register is 0, every byte of every buffer is a known 0, and a second
`CLR` changes nothing more. -/
def Obligations.ClrZeroesEverything : Prop :=
  ∀ s : State, ∃ t, exec .clr s = .next t ∧ hostMove (.cmd 0x70) s = .next t ∧
    t.ctr = 0 ∧ t.code = 0 ∧ t.alen = 0 ∧ t.blen = 0 ∧ t.olen = 0 ∧ t.matchFlag = false ∧ t.scan = 0 ∧ t.err = 0 ∧
    (∀ a, t.readA a = 0 ∧ t.readB a = 0 ∧ t.readO a = 0 ∧
      t.abuf.specified a = true ∧ t.bbuf.specified a = true ∧ t.obuf.specified a = true) ∧
    SameOutside s t ∧ exec .clr t = .next t

/-- Reset and `CLR` differ in the buffers only (70_reset_and_hazards.md R201). -/
def Obligations.ClrAndResetDifferInBuffersOnly : Prop :=
  ∀ s : State, ∃ t, exec .clr s = .next t ∧
    s.resetBlock = { t with abuf := s.resetBlock.abuf, bbuf := s.resetBlock.bbuf, obuf := s.resetBlock.obuf } ∧
    ∀ a, s.resetBlock.abuf.specified a = false ∧ s.resetBlock.bbuf.specified a = false ∧
      s.resetBlock.obuf.specified a = false

/-! ## The host's flows -/

/-- HOTP through the block (45_host_flows.md R166): for every HMAC the token has the digits asked for, and they are
those of the code truncated out of the HMAC of the counter message (the flow: log entries 12 and 16). -/
def Obligations.HotpIsTheTruncatedHmac : Prop :=
  ∀ (hmac : Hmac) (key : List Byte) (counter d : Nat) (h : Hash) (s : State), Inv s → 1 ≤ d → d ≤ 15 →
    ∃ t token, hotp hmac key counter d h s = .next (t, .ok token) ∧
      token = (List.range d).map fun j => BitVec.ofNat 8 (tokenChar (hotpCode hmac key counter h) d j)

/-- A token generated for a time inside the window is accepted (45_host_flows.md R174, window symmetry), for every
HMAC, from any states of the block (normalisation and flow: log entries 11, 12 and 16). -/
def Obligations.VerifyAcceptsTokensOfTheWindow : Prop :=
  ∀ (hmac : Hmac) (secret token : List Byte) (time k : Int) (window stepSeconds d : Nat) (h : Hash) (s s' u : State),
    Inv s → Inv u → secret.length ≤ s.capacity → 1 ≤ stepSeconds → 1 ≤ d → d ≤ 15 →
    -(window : Int) ≤ k → k ≤ window → 0 ≤ time - window * stepSeconds →
    u.params = s.params →
    totp hmac secret (time + k * stepSeconds) stepSeconds d h s = .next (s', .ok token) →
    ∃ t, verifyTotp hmac secret token time window stepSeconds d h u = .next (t, .ok true)

/-- With a window of 0 the verdict is equality with the true token (45_host_flows.md R169, R170, R174, rejection;
log entries 11, 12 and 16). -/
def Obligations.VerifyWithoutWindowDecidesEquality : Prop :=
  ∀ (hmac : Hmac) (secret candidate token : List Byte) (time : Int) (stepSeconds d : Nat) (h : Hash) (s s' : State),
    Inv s → candidate.length ≤ s.capacity → d ≤ 15 →
    totp hmac secret time stepSeconds d h s = .next (s', .ok token) →
    ∃ t, verifyTotp hmac secret candidate time 0 stepSeconds d h s
      = .next (t, .ok (decide (normaliseCandidate candidate = token)))

/-- The host's checks come first (45_host_flows.md R167, R172): the unsupported selector ends HOTP, TOTP and verification
with `ERR_CONFIG`, an empty secret or token with `ERR_INPUT`, the block untouched; with a supported selector and no empty
argument each is the flow itself. Which of the two checks comes first is the model's (log entry 16). -/
def Obligations.HostChecksPrecedeTheBlock : Prop :=
  ∀ (hmac : Hmac) (key candidate : List Byte) (counter d : Nat) (time : Int) (window stepSeconds : Nat) (s : State),
    (checkedHotp hmac key counter d .alg3 s = .next (s, .error (ErrCode.bits .config)) ∧
      checkedTotp hmac key time stepSeconds d .alg3 s = .next (s, .error (ErrCode.bits .config)) ∧
      checkedVerify hmac key candidate time window stepSeconds d .alg3 s
        = .next (s, .error (ErrCode.bits .config))) ∧
    ∀ h : Hash,
      checkedHotp hmac [] counter d (selectorOf h) s = .next (s, .error (ErrCode.bits .input)) ∧
      checkedTotp hmac [] time stepSeconds d (selectorOf h) s = .next (s, .error (ErrCode.bits .input)) ∧
      (key = [] ∨ candidate = [] → checkedVerify hmac key candidate time window stepSeconds d (selectorOf h) s
        = .next (s, .error (ErrCode.bits .input))) ∧
      (key ≠ [] → checkedHotp hmac key counter d (selectorOf h) s = hotp hmac key counter d h s ∧
        checkedTotp hmac key time stepSeconds d (selectorOf h) s = totp hmac key time stepSeconds d h s) ∧
      (key ≠ [] → candidate ≠ [] → checkedVerify hmac key candidate time window stepSeconds d (selectorOf h) s
        = verifyTotp hmac key candidate time window stepSeconds d h s)

/-- An algorithm given to `dtrunc` that is not the one given to HMAC ends with `ERR_INPUT`, `CODE` left: no two of the
supported set have digests of one length (45_host_flows.md R167, 42_truncate_format.md R131; HMAC: log entry 12). -/
def Obligations.MismatchedAlgorithmIsCaught : Prop :=
  ∀ (hmac : Hmac) (key message : List Byte) (h h' : Hash) (s : State), s.params.Admitted → h ≠ h' →
    ∃ t, hostMove (.seta (hmac h key message).toList) s = .next t ∧
      exec (.dtrunc (selectorOf h')) t = .next { t with err := ErrCode.bits .input }

end
end

