-- ==== Sys2Proof/Laws/Base32.lean ====
section
/-! SUPPORT. One spec lemma per function of the codec's loops. -/

namespace Sys2Proof.Machine

/-- The encoder's inner loop does nothing with fewer than 5 bits buffered. -/
theorem drainSymbols_done (rounds : Nat) (q : BitQueue) (h : q.nb < 5) : drainSymbols rounds q = q := by
  cases rounds with
  | zero => rfl
  | succ r => rw [drainSymbols, if_neg (by omega)]

/-- The encoder's inner loop takes a symbol out while 5 bits are buffered. -/
theorem drainSymbols_emit (rounds : Nat) (q : BitQueue) (h : 5 ≤ q.nb) :
    drainSymbols (rounds + 1) q = drainSymbols rounds (emitSymbol q) := by
  rw [drainSymbols, if_pos h]

/-- A byte with 0 or 1 bits left over makes one symbol. -/
theorem encodeByte_once (q : BitQueue) (b : Byte) (h : q.nb < 2) :
    encodeByte q b = emitSymbol { q with acc := (q.acc <<< 8) ||| b.toNat, nb := q.nb + 8 } := by
  have : ∀ r, drainSymbols (r + 1) { q with acc := (q.acc <<< 8) ||| b.toNat, nb := q.nb + 8 }
      = emitSymbol { q with acc := (q.acc <<< 8) ||| b.toNat, nb := q.nb + 8 } := by
    intro r
    rw [drainSymbols_emit _ _ (by simp), drainSymbols_done _ _ (by simp [emitSymbol]; omega)]
  exact this _

/-- A byte with 2 to 4 bits left over makes two symbols. -/
theorem encodeByte_twice (q : BitQueue) (b : Byte) (h : 2 ≤ q.nb) (h' : q.nb ≤ 4) :
    encodeByte q b
      = emitSymbol (emitSymbol { q with acc := (q.acc <<< 8) ||| b.toNat, nb := q.nb + 8 }) := by
  have : ∀ r, drainSymbols (r + 2) { q with acc := (q.acc <<< 8) ||| b.toNat, nb := q.nb + 8 }
      = emitSymbol (emitSymbol { q with acc := (q.acc <<< 8) ||| b.toNat, nb := q.nb + 8 }) := by
    intro r
    rw [drainSymbols_emit _ _ (by simp), drainSymbols_emit _ _ (by simp [emitSymbol]; omega),
      drainSymbols_done _ _ (by simp [emitSymbol]; omega)]
  exact this (q.nb + 6)

@[simp] theorem encodeBytes_nil : encodeBytes [] = emptyQueue := rfl

/-- The encoder takes bytes one after another. -/
theorem encodeBytes_append (bs : List Byte) (b : Byte) :
    encodeBytes (bs ++ [b]) = encodeByte (encodeBytes bs) b := by
  simp [encodeBytes]

/-- Whitespace leaves the decoder as it is. -/
theorem decodeText_whitespace (q : BitQueue) (c : Byte) (cs : List Byte) (h : isWhitespace c = true) :
    decodeText q (c :: cs) = decodeText q cs := by
  simp [decodeText, h]

/-- A foreign character ends the decoding. -/
theorem decodeText_foreign (q : BitQueue) (c : Byte) (cs : List Byte) (h : isWhitespace c = false)
    (hv : symbolValue (upperCase c) = none) : decodeText q (c :: cs) = none := by
  simp [decodeText, h, hv]

/-- A symbol goes into the decoder. -/
theorem decodeText_symbol (q : BitQueue) (c : Byte) (cs : List Byte) (v : Nat) (h : isWhitespace c = false)
    (hv : symbolValue (upperCase c) = some v) : decodeText q (c :: cs) = decodeText (takeSymbol q v) cs := by
  simp [decodeText, h, hv]

end Sys2Proof.Machine
end

