-- ==== Sys2Proof/Laws/Compare.lean ====
section
/-! SUPPORT. One spec lemma for the comparator's loop. -/

namespace Sys2Proof.Machine

/-- Two bytes whose XOR is 0 are equal (43_compare.md R151). -/
theorem xor_eq_zero_iff_eq (a b : Byte) : a ^^^ b = 0 ↔ a = b := by
  constructor
  · intro h
    have := congrArg (· ^^^ b) h
    simpa [BitVec.xor_assoc] using this
  · rintro rfl
    simp

/-- An OR of bytes is 0 only if both are. -/
theorem or_eq_zero_iff_both (a b : Byte) : a ||| b = 0 ↔ a = 0 ∧ b = 0 := by
  constructor
  · intro h
    refine ⟨?_, ?_⟩ <;> apply BitVec.eq_of_getLsbD_eq <;> intro i hi
    · have := congrArg (·.getLsbD i) h
      simp at this; simp [this.1]
    · have := congrArg (·.getLsbD i) h
      simp at this; simp [this.2]
  · rintro ⟨rfl, rfl⟩
    rfl

/-- The loop over two strings of one length: nothing is accumulated exactly when they are equal and nothing was there
before, and every pair is counted. -/
theorem comparePairs_spec (as : List Byte) : ∀ (bs : List Byte) (diff : Byte) (count : Nat), as.length = bs.length →
    ((comparePairs as bs diff count).1 = 0 ↔ diff = 0 ∧ as = bs) ∧
      (comparePairs as bs diff count).2 = count + as.length := by
  induction as with
  | nil =>
    intro bs diff count h
    obtain rfl : bs = [] := List.length_eq_zero_iff.mp h.symm
    simp [comparePairs]
  | cons a as ih =>
    intro bs diff count h
    cases bs with
    | nil => simp at h
    | cons b bs =>
      have hl : as.length = bs.length := by simpa using h
      obtain ⟨h1, h2⟩ := ih bs (diff ||| (a ^^^ b)) (count + 1) hl
      refine ⟨?_, ?_⟩
      · rw [comparePairs, h1, or_eq_zero_iff_both, xor_eq_zero_iff_eq]
        simp only [List.cons.injEq]
        tauto
      · rw [comparePairs, h2, List.length_cons]; omega

end Sys2Proof.Machine
end

