-- ==== Sys2Proof/Laws/Memory.lean ====
section
/-! SUPPORT. One buffer: what a write does to every read, that every operation keeps the canonical form and the
capacity, and what the buffer of a result holds. -/

namespace Sys2Proof.Machine

/-! ## Lists of cells -/

@[simp] theorem findCell_nil (i : Nat) : findCell [] i = none := rfl

theorem findCell_cons (j : Nat) (v : Byte) (rest : List Host.Cell) (i : Nat) :
    findCell ((j, v) :: rest) i = if j = i then some v else findCell rest i := rfl

theorem findCell_insertCell (i : Nat) (v : Byte) (cells : List Host.Cell) (a : Nat) :
    findCell (insertCell i v cells) a = if i = a then some v else findCell cells a := by
  induction cells with
  | nil => rfl
  | cons c rest ih =>
    obtain ⟨j, w⟩ := c
    unfold insertCell
    split
    · rfl
    · split
      · next h => subst h; simp only [findCell_cons]; split <;> rfl
      · simp only [findCell_cons, ih]
        split
        · next h1 h2 h3 => subst h3; simp [h2]
        · rfl

theorem findCell_eraseCell (i : Nat) (cells : List Host.Cell) (a : Nat) :
    findCell (eraseCell i cells) a = if i = a then none else findCell cells a := by
  induction cells with
  | nil => simp [eraseCell]
  | cons c rest ih =>
    obtain ⟨j, w⟩ := c
    unfold eraseCell
    split
    · next h => subst h; rw [ih]; simp only [findCell_cons]; split <;> rfl
    · next h =>
      simp only [findCell_cons, ih]
      split
      · next h2 => subst h2; simp [Ne.symm h]
      · rfl

theorem all_insertCell (p : Host.Cell → Bool) (i : Nat) (v : Byte) (cells : List Host.Cell)
    (h : cells.all p = true) (hv : p (i, v) = true) : (insertCell i v cells).all p = true := by
  induction cells with
  | nil => simp [insertCell, hv]
  | cons c rest ih =>
    simp only [List.all_cons, Bool.and_eq_true] at h
    unfold insertCell
    split
    · simp [hv, h]
    · split
      · simp [hv, h]
      · simp [h, ih h.2]

theorem all_eraseCell (p : Host.Cell → Bool) (i : Nat) (cells : List Host.Cell) (h : cells.all p = true) :
    (eraseCell i cells).all p = true := by
  induction cells with
  | nil => rfl
  | cons c rest ih =>
    simp only [List.all_cons, Bool.and_eq_true] at h
    unfold eraseCell
    split
    · exact ih h.2
    · simp [h, ih h.2]

theorem rising_insertCell (i : Nat) (v : Byte) (cells : List Host.Cell) (h : rising cells = true) :
    rising (insertCell i v cells) = true := by
  induction cells with
  | nil => rfl
  | cons c rest ih =>
    obtain ⟨j, w⟩ := c
    have h' := h
    simp only [rising, Bool.and_eq_true] at h
    unfold insertCell
    split
    · next hij =>
      simp only [rising, List.all_cons, Bool.and_eq_true, decide_eq_true_eq]
      refine ⟨⟨hij, ?_⟩, h⟩
      simp only [List.all_eq_true, decide_eq_true_eq] at h ⊢
      exact fun c hc => lt_trans hij (h.1 c hc)
    · split
      · next hij => subst hij; simpa only [rising, Bool.and_eq_true] using h
      · next h1 h2 =>
        simp only [rising, Bool.and_eq_true]
        exact ⟨all_insertCell _ i v rest h.1 (by simp; omega), ih h.2⟩

theorem rising_eraseCell (i : Nat) (cells : List Host.Cell) (h : rising cells = true) :
    rising (eraseCell i cells) = true := by
  induction cells with
  | nil => rfl
  | cons c rest ih =>
    obtain ⟨j, w⟩ := c
    simp only [rising, Bool.and_eq_true] at h
    unfold eraseCell
    split
    · exact ih h.2
    · simp only [rising, Bool.and_eq_true]
      exact ⟨all_eraseCell _ i rest h.1, ih h.2⟩

/-! ## Writes -/

/-- A write as the reads see it: the known byte of every index afterwards. -/
theorem Memory.read_write (m : Memory) (i : Nat) (v : Byte) (sp : Space) (draw a : Nat) :
    (m.write i v).read sp draw a = if i = a then v else m.read sp draw a := by
  unfold Memory.write
  split
  · next h =>
    by_cases hia : i = a <;> simp [Memory.read, findCell_eraseCell, Memory.unlisted, h.1, h.2, hia]
  · by_cases hia : i = a <;> simp [Memory.read, findCell_insertCell, Memory.unlisted, hia]

theorem Memory.read_write_same (m : Memory) (i : Nat) (v : Byte) (sp : Space) (draw : Nat) :
    (m.write i v).read sp draw i = v := by
  simp [Memory.read_write]

theorem Memory.read_write_other (m : Memory) (i : Nat) (v : Byte) (sp : Space) (draw a : Nat) (h : i ≠ a) :
    (m.write i v).read sp draw a = m.read sp draw a := by
  simp [Memory.read_write, h]

theorem Memory.write_fill (m : Memory) (i : Nat) (v : Byte) : (m.write i v).fill = m.fill := by
  unfold Memory.write; split <;> rfl

theorem Memory.specified_write (m : Memory) (i : Nat) (v : Byte) (a : Nat) :
    (m.write i v).specified a = (decide (i = a) || m.specified a) := by
  unfold Memory.write
  split
  · next h => simp [Memory.specified, h.1]
  · simp only [Memory.specified, findCell_insertCell]
    split
    · next h => simp [h]
    · next h => simp [h]

theorem Memory.wf_write (m : Memory) (i : Nat) (v : Byte) (h : m.wf = true) : (m.write i v).wf = true := by
  simp only [Memory.wf, Bool.and_eq_true, Bool.or_eq_true, decide_eq_true_eq] at h
  unfold Memory.write
  split
  · simp only [Memory.wf, Bool.and_eq_true, Bool.or_eq_true, decide_eq_true_eq]
    exact ⟨rising_eraseCell i _ h.1, h.2.imp_right (all_eraseCell _ i _)⟩
  · next hz =>
    simp only [Memory.wf, Bool.and_eq_true, Bool.or_eq_true, decide_eq_true_eq]
    refine ⟨rising_insertCell i v _ h.1, ?_⟩
    cases hf : m.fill with
    | unspecified => exact .inl rfl
    | zero =>
      right
      have hv : v ≠ 0 := fun hv => hz ⟨hf, hv⟩
      exact all_insertCell _ i v _ (h.2.resolve_left (by simp [hf])) (by simpa using hv)

theorem Memory.within_write (m : Memory) (i : Nat) (v : Byte) (n : Nat) (h : m.within n = true) (hi : i < n) :
    (m.write i v).within n = true := by
  unfold Memory.write
  split
  · exact all_eraseCell _ i _ h
  · exact all_insertCell _ i v _ h (by simpa using hi)

theorem Memory.wf_writeFrom (vs : List Byte) :
    ∀ (m : Memory) (i : Nat), m.wf = true → (m.writeFrom i vs).wf = true := by
  induction vs with
  | nil => exact fun _ _ h => h
  | cons v vs ih => exact fun m i h => ih _ _ (m.wf_write i v h)

theorem Memory.within_writeFrom (n : Nat) (vs : List Byte) :
    ∀ (m : Memory) (i : Nat), m.within n = true → i + vs.length ≤ n → (m.writeFrom i vs).within n = true := by
  induction vs with
  | nil => exact fun _ _ h _ => h
  | cons v vs ih =>
    intro m i h hn
    simp only [List.length_cons] at hn
    exact ih _ _ (m.within_write i v n h (by omega)) (by omega)

/-- A string written from `i` on, as the reads see it. -/
theorem Memory.read_writeFrom (sp : Space) (draw : Nat) (vs : List Byte) : ∀ (m : Memory) (i a : Nat),
    (m.writeFrom i vs).read sp draw a
      = if h : i ≤ a ∧ a < i + vs.length then vs[a - i]'(by omega) else m.read sp draw a := by
  induction vs with
  | nil =>
    intro m i a
    have : ¬ (i ≤ a ∧ a < i + ([] : List Byte).length) := by simp
    rw [dif_neg this]; rfl
  | cons v vs ih =>
    intro m i a
    simp only [Memory.writeFrom, ih, Memory.read_write, List.length_cons]
    by_cases h0 : i = a
    · subst h0
      simp
    · by_cases h1 : i + 1 ≤ a ∧ a < i + 1 + vs.length
      · have h2 : i ≤ a ∧ a < i + (vs.length + 1) := by omega
        rw [dif_pos h1, dif_pos h2]
        have : a - i = a - (i + 1) + 1 := by omega
        simp [this]
      · have h2 : ¬ (i ≤ a ∧ a < i + (vs.length + 1)) := by omega
        rw [dif_neg h1, dif_neg h2, if_neg h0]

/-! ## The buffer of a result -/

theorem findCell_cellsFrom (vs : List Byte) : ∀ (i a : Nat),
    findCell (cellsFrom i vs) a = if i ≤ a then vs[a - i]? else none := by
  induction vs with
  | nil => simp [cellsFrom]
  | cons v vs ih =>
    intro i a
    simp only [cellsFrom, findCell_cons, ih]
    split
    · next h => subst h; simp
    · next h =>
      by_cases h1 : i + 1 ≤ a
      · have : a - i = a - (i + 1) + 1 := by omega
        simp [h1, show i ≤ a by omega, this]
      · simp [h1, show ¬ i ≤ a by omega]

theorem all_cellsFrom_index (n : Nat) (vs : List Byte) : ∀ (i : Nat),
    i + vs.length ≤ n → (cellsFrom i vs).all (fun c => decide (c.1 < n)) = true := by
  induction vs with
  | nil => simp [cellsFrom]
  | cons v vs ih =>
    intro i h
    simp only [List.length_cons] at h
    simp only [cellsFrom, List.all_cons, Bool.and_eq_true, decide_eq_true_eq]
    exact ⟨by omega, ih _ (by omega)⟩

theorem all_cellsFrom_above (k : Nat) (vs : List Byte) : ∀ (i : Nat),
    k < i → (cellsFrom i vs).all (fun c => decide (k < c.1)) = true := by
  induction vs with
  | nil => simp [cellsFrom]
  | cons v vs ih =>
    intro i h
    simp only [cellsFrom, List.all_cons, Bool.and_eq_true, decide_eq_true_eq]
    exact ⟨h, ih _ (by omega)⟩

theorem rising_cellsFrom (vs : List Byte) : ∀ (i : Nat), rising (cellsFrom i vs) = true := by
  induction vs with
  | nil => intro i; rfl
  | cons v vs ih =>
    intro i
    simp only [cellsFrom, rising, Bool.and_eq_true]
    exact ⟨all_cellsFrom_above i vs _ (by omega), ih _⟩

/-- Inside the string, the buffer of a result reads as the string. -/
theorem Memory.read_ofBytes (vs : List Byte) (sp : Space) (draw a : Nat) (h : a < vs.length) :
    (Memory.ofBytes vs).read sp draw a = vs[a] := by
  simp [Memory.read, Memory.ofBytes, findCell_cellsFrom, h]

/-- A byte of a result's buffer is known exactly inside the string. -/
theorem Memory.specified_ofBytes (vs : List Byte) (a : Nat) :
    (Memory.ofBytes vs).specified a = decide (a < vs.length) := by
  simp only [Memory.specified, Memory.ofBytes, findCell_cellsFrom]
  by_cases h : a < vs.length <;> simp [h]

theorem Memory.wf_ofBytes (vs : List Byte) : (Memory.ofBytes vs).wf = true := by
  simp [Memory.wf, Memory.ofBytes, rising_cellsFrom]

theorem Memory.within_ofBytes (vs : List Byte) (n : Nat) (h : vs.length ≤ n) :
    (Memory.ofBytes vs).within n = true :=
  all_cellsFrom_index n vs 0 (by omega)

theorem insertCell_append (v : Byte) : ∀ (cells : List Host.Cell) (n : Nat),
    cells.all (fun c => decide (c.1 < n)) = true → insertCell n v cells = cells ++ [(n, v)] := by
  intro cells n h
  induction cells with
  | nil => rfl
  | cons c rest ih =>
    obtain ⟨j, w⟩ := c
    simp only [List.all_cons, Bool.and_eq_true, decide_eq_true_eq] at h
    unfold insertCell
    rw [if_neg (by omega), if_neg (by omega), ih h.2]
    rfl

/-- The buffer of a result is what writing its bytes one after another, from index 0, leaves of a buffer with nothing
known (the pseudocode's `MemWrite(OBUF, k, …)`). -/
theorem Memory.ofBytes_eq_writeFrom (vs : List Byte) : Memory.ofBytes vs = Memory.unspecified.writeFrom 0 vs := by
  have key : ∀ (vs : List Byte) (cells : List Host.Cell) (i : Nat),
      cells.all (fun c => decide (c.1 < i)) = true →
      Memory.writeFrom { fill := .unspecified, cells := cells } i vs
        = { fill := .unspecified, cells := cells ++ cellsFrom i vs } := by
    intro vs
    induction vs with
    | nil => intro cells i _; simp [Memory.writeFrom, cellsFrom]
    | cons v vs ih =>
      intro cells i h
      have hw : Memory.write { fill := .unspecified, cells := cells } i v
          = { fill := .unspecified, cells := cells ++ [(i, v)] } := by
        simp [Memory.write, insertCell_append v cells i h]
      rw [Memory.writeFrom, hw, ih]
      · simp [cellsFrom]
      · simp only [List.all_append, List.all_cons, List.all_nil, Bool.and_true, Bool.and_eq_true, decide_eq_true_eq]
        refine ⟨?_, by omega⟩
        simp only [List.all_eq_true, decide_eq_true_eq] at h ⊢
        exact fun c hc => lt_trans (h c hc) (by omega)
  simpa [Memory.ofBytes, Memory.unspecified] using (key vs [] 0 rfl).symm

/-! ## The buffers of reset and of `CLR` -/

@[simp] theorem Memory.specified_unspecified (a : Nat) : Memory.unspecified.specified a = false := rfl
@[simp] theorem Memory.wf_unspecified : Memory.unspecified.wf = true := rfl
@[simp] theorem Memory.within_unspecified (n : Nat) : Memory.unspecified.within n = true := rfl
@[simp] theorem Memory.specified_zeros (a : Nat) : Memory.zeros.specified a = true := rfl
@[simp] theorem Memory.wf_zeros : Memory.zeros.wf = true := rfl
@[simp] theorem Memory.within_zeros (n : Nat) : Memory.zeros.within n = true := rfl
@[simp] theorem Memory.read_zeros (sp : Space) (draw a : Nat) : Memory.zeros.read sp draw a = 0 := rfl

@[simp] theorem Memory.read_unspecified (sp : Space) (draw a : Nat) :
    Memory.unspecified.read sp draw a = Config.freeByte draw sp a := rfl

end Sys2Proof.Machine
end

