-- ==== Sys2Proof/Laws/State.lean ====
section
/-! SUPPORT. One lemma per field per update of the state, each true by rfl, so that no proof unfolds a record update;
the capacities, which no update touches, among them. -/

namespace Sys2Proof.Machine

variable (s : State)

/-! ### Error completion of a command with a string result -/

@[simp] theorem State.raise_output_params (e : ErrCode) : (s.raise .output e).params = s.params := rfl
@[simp] theorem State.raise_output_ctr (e : ErrCode) : (s.raise .output e).ctr = s.ctr := rfl
@[simp] theorem State.raise_output_code (e : ErrCode) : (s.raise .output e).code = s.code := rfl
@[simp] theorem State.raise_output_alen (e : ErrCode) : (s.raise .output e).alen = s.alen := rfl
@[simp] theorem State.raise_output_blen (e : ErrCode) : (s.raise .output e).blen = s.blen := rfl
@[simp] theorem State.raise_output_olen (e : ErrCode) : (s.raise .output e).olen = 0 := rfl
@[simp] theorem State.raise_output_matchFlag (e : ErrCode) : (s.raise .output e).matchFlag = s.matchFlag := rfl
@[simp] theorem State.raise_output_err (e : ErrCode) : (s.raise .output e).err = e.bits := rfl
@[simp] theorem State.raise_output_scan (e : ErrCode) : (s.raise .output e).scan = s.scan := rfl
@[simp] theorem State.raise_output_abuf (e : ErrCode) : (s.raise .output e).abuf = s.abuf := rfl
@[simp] theorem State.raise_output_bbuf (e : ErrCode) : (s.raise .output e).bbuf = s.bbuf := rfl
@[simp] theorem State.raise_output_obuf (e : ErrCode) : (s.raise .output e).obuf = Memory.unspecified := rfl
@[simp] theorem State.raise_output_draws (e : ErrCode) : (s.raise .output e).draws = s.draws := rfl
@[simp] theorem State.raise_output_inputs (e : ErrCode) : (s.raise .output e).inputs = s.inputs := rfl
@[simp] theorem State.raise_output_reply (e : ErrCode) : (s.raise .output e).reply = s.reply := rfl
@[simp] theorem State.raise_output_capacity (e : ErrCode) : (s.raise .output e).capacity = s.capacity := rfl
@[simp] theorem State.raise_output_outCapacity (e : ErrCode) : (s.raise .output e).outCapacity = s.outCapacity := rfl

/-! ### Error completion of `DTRUNC` -/

@[simp] theorem State.raise_code_params (e : ErrCode) : (s.raise .code e).params = s.params := rfl
@[simp] theorem State.raise_code_ctr (e : ErrCode) : (s.raise .code e).ctr = s.ctr := rfl
@[simp] theorem State.raise_code_code (e : ErrCode) : (s.raise .code e).code = s.code := rfl
@[simp] theorem State.raise_code_alen (e : ErrCode) : (s.raise .code e).alen = s.alen := rfl
@[simp] theorem State.raise_code_blen (e : ErrCode) : (s.raise .code e).blen = s.blen := rfl
@[simp] theorem State.raise_code_olen (e : ErrCode) : (s.raise .code e).olen = s.olen := rfl
@[simp] theorem State.raise_code_matchFlag (e : ErrCode) : (s.raise .code e).matchFlag = s.matchFlag := rfl
@[simp] theorem State.raise_code_err (e : ErrCode) : (s.raise .code e).err = e.bits := rfl
@[simp] theorem State.raise_code_scan (e : ErrCode) : (s.raise .code e).scan = s.scan := rfl
@[simp] theorem State.raise_code_abuf (e : ErrCode) : (s.raise .code e).abuf = s.abuf := rfl
@[simp] theorem State.raise_code_bbuf (e : ErrCode) : (s.raise .code e).bbuf = s.bbuf := rfl
@[simp] theorem State.raise_code_obuf (e : ErrCode) : (s.raise .code e).obuf = s.obuf := rfl
@[simp] theorem State.raise_code_draws (e : ErrCode) : (s.raise .code e).draws = s.draws := rfl
@[simp] theorem State.raise_code_inputs (e : ErrCode) : (s.raise .code e).inputs = s.inputs := rfl
@[simp] theorem State.raise_code_reply (e : ErrCode) : (s.raise .code e).reply = s.reply := rfl
@[simp] theorem State.raise_code_capacity (e : ErrCode) : (s.raise .code e).capacity = s.capacity := rfl
@[simp] theorem State.raise_code_outCapacity (e : ErrCode) : (s.raise .code e).outCapacity = s.outCapacity := rfl

/-! ### Error completion of `CMP` -/

@[simp] theorem State.raise_compare_params (e : ErrCode) : (s.raise .compare e).params = s.params := rfl
@[simp] theorem State.raise_compare_ctr (e : ErrCode) : (s.raise .compare e).ctr = s.ctr := rfl
@[simp] theorem State.raise_compare_code (e : ErrCode) : (s.raise .compare e).code = s.code := rfl
@[simp] theorem State.raise_compare_alen (e : ErrCode) : (s.raise .compare e).alen = s.alen := rfl
@[simp] theorem State.raise_compare_blen (e : ErrCode) : (s.raise .compare e).blen = s.blen := rfl
@[simp] theorem State.raise_compare_olen (e : ErrCode) : (s.raise .compare e).olen = s.olen := rfl
@[simp] theorem State.raise_compare_matchFlag (e : ErrCode) : (s.raise .compare e).matchFlag = false := rfl
@[simp] theorem State.raise_compare_err (e : ErrCode) : (s.raise .compare e).err = e.bits := rfl
@[simp] theorem State.raise_compare_scan (e : ErrCode) : (s.raise .compare e).scan = 0 := rfl
@[simp] theorem State.raise_compare_abuf (e : ErrCode) : (s.raise .compare e).abuf = s.abuf := rfl
@[simp] theorem State.raise_compare_bbuf (e : ErrCode) : (s.raise .compare e).bbuf = s.bbuf := rfl
@[simp] theorem State.raise_compare_obuf (e : ErrCode) : (s.raise .compare e).obuf = s.obuf := rfl
@[simp] theorem State.raise_compare_draws (e : ErrCode) : (s.raise .compare e).draws = s.draws := rfl
@[simp] theorem State.raise_compare_inputs (e : ErrCode) : (s.raise .compare e).inputs = s.inputs := rfl
@[simp] theorem State.raise_compare_reply (e : ErrCode) : (s.raise .compare e).reply = s.reply := rfl
@[simp] theorem State.raise_compare_capacity (e : ErrCode) : (s.raise .compare e).capacity = s.capacity := rfl
@[simp] theorem State.raise_compare_outCapacity (e : ErrCode) : (s.raise .compare e).outCapacity = s.outCapacity := rfl

/-! ### Illegal-command completion -/

@[simp] theorem State.raise_nothing_params (e : ErrCode) : (s.raise .nothing e).params = s.params := rfl
@[simp] theorem State.raise_nothing_ctr (e : ErrCode) : (s.raise .nothing e).ctr = s.ctr := rfl
@[simp] theorem State.raise_nothing_code (e : ErrCode) : (s.raise .nothing e).code = s.code := rfl
@[simp] theorem State.raise_nothing_alen (e : ErrCode) : (s.raise .nothing e).alen = s.alen := rfl
@[simp] theorem State.raise_nothing_blen (e : ErrCode) : (s.raise .nothing e).blen = s.blen := rfl
@[simp] theorem State.raise_nothing_olen (e : ErrCode) : (s.raise .nothing e).olen = s.olen := rfl
@[simp] theorem State.raise_nothing_matchFlag (e : ErrCode) : (s.raise .nothing e).matchFlag = s.matchFlag := rfl
@[simp] theorem State.raise_nothing_err (e : ErrCode) : (s.raise .nothing e).err = e.bits := rfl
@[simp] theorem State.raise_nothing_scan (e : ErrCode) : (s.raise .nothing e).scan = s.scan := rfl
@[simp] theorem State.raise_nothing_abuf (e : ErrCode) : (s.raise .nothing e).abuf = s.abuf := rfl
@[simp] theorem State.raise_nothing_bbuf (e : ErrCode) : (s.raise .nothing e).bbuf = s.bbuf := rfl
@[simp] theorem State.raise_nothing_obuf (e : ErrCode) : (s.raise .nothing e).obuf = s.obuf := rfl
@[simp] theorem State.raise_nothing_draws (e : ErrCode) : (s.raise .nothing e).draws = s.draws := rfl
@[simp] theorem State.raise_nothing_inputs (e : ErrCode) : (s.raise .nothing e).inputs = s.inputs := rfl
@[simp] theorem State.raise_nothing_reply (e : ErrCode) : (s.raise .nothing e).reply = s.reply := rfl
@[simp] theorem State.raise_nothing_capacity (e : ErrCode) : (s.raise .nothing e).capacity = s.capacity := rfl
@[simp] theorem State.raise_nothing_outCapacity (e : ErrCode) : (s.raise .nothing e).outCapacity = s.outCapacity := rfl

/-! ### Success with a string result -/

@[simp] theorem State.succeedOutput_params (vs : List Byte) : (s.succeedOutput vs).params = s.params := rfl
@[simp] theorem State.succeedOutput_ctr (vs : List Byte) : (s.succeedOutput vs).ctr = s.ctr := rfl
@[simp] theorem State.succeedOutput_code (vs : List Byte) : (s.succeedOutput vs).code = s.code := rfl
@[simp] theorem State.succeedOutput_alen (vs : List Byte) : (s.succeedOutput vs).alen = s.alen := rfl
@[simp] theorem State.succeedOutput_blen (vs : List Byte) : (s.succeedOutput vs).blen = s.blen := rfl
@[simp] theorem State.succeedOutput_olen (vs : List Byte) : (s.succeedOutput vs).olen = BitVec.ofNat 32 vs.length := rfl
@[simp] theorem State.succeedOutput_matchFlag (vs : List Byte) : (s.succeedOutput vs).matchFlag = s.matchFlag := rfl
@[simp] theorem State.succeedOutput_err (vs : List Byte) : (s.succeedOutput vs).err = 0 := rfl
@[simp] theorem State.succeedOutput_scan (vs : List Byte) : (s.succeedOutput vs).scan = s.scan := rfl
@[simp] theorem State.succeedOutput_abuf (vs : List Byte) : (s.succeedOutput vs).abuf = s.abuf := rfl
@[simp] theorem State.succeedOutput_bbuf (vs : List Byte) : (s.succeedOutput vs).bbuf = s.bbuf := rfl
@[simp] theorem State.succeedOutput_obuf (vs : List Byte) : (s.succeedOutput vs).obuf = Memory.ofBytes vs := rfl
@[simp] theorem State.succeedOutput_draws (vs : List Byte) : (s.succeedOutput vs).draws = s.draws := rfl
@[simp] theorem State.succeedOutput_inputs (vs : List Byte) : (s.succeedOutput vs).inputs = s.inputs := rfl
@[simp] theorem State.succeedOutput_reply (vs : List Byte) : (s.succeedOutput vs).reply = s.reply := rfl
@[simp] theorem State.succeedOutput_capacity (vs : List Byte) : (s.succeedOutput vs).capacity = s.capacity := rfl
@[simp] theorem State.succeedOutput_outCapacity (vs : List Byte) : (s.succeedOutput vs).outCapacity = s.outCapacity := rfl

/-! ### Success of `DTRUNC` -/

@[simp] theorem State.succeedCode_params (v : BitVec 31) : (s.succeedCode v).params = s.params := rfl
@[simp] theorem State.succeedCode_ctr (v : BitVec 31) : (s.succeedCode v).ctr = s.ctr := rfl
@[simp] theorem State.succeedCode_code (v : BitVec 31) : (s.succeedCode v).code = v := rfl
@[simp] theorem State.succeedCode_alen (v : BitVec 31) : (s.succeedCode v).alen = s.alen := rfl
@[simp] theorem State.succeedCode_blen (v : BitVec 31) : (s.succeedCode v).blen = s.blen := rfl
@[simp] theorem State.succeedCode_olen (v : BitVec 31) : (s.succeedCode v).olen = s.olen := rfl
@[simp] theorem State.succeedCode_matchFlag (v : BitVec 31) : (s.succeedCode v).matchFlag = s.matchFlag := rfl
@[simp] theorem State.succeedCode_err (v : BitVec 31) : (s.succeedCode v).err = 0 := rfl
@[simp] theorem State.succeedCode_scan (v : BitVec 31) : (s.succeedCode v).scan = s.scan := rfl
@[simp] theorem State.succeedCode_abuf (v : BitVec 31) : (s.succeedCode v).abuf = s.abuf := rfl
@[simp] theorem State.succeedCode_bbuf (v : BitVec 31) : (s.succeedCode v).bbuf = s.bbuf := rfl
@[simp] theorem State.succeedCode_obuf (v : BitVec 31) : (s.succeedCode v).obuf = s.obuf := rfl
@[simp] theorem State.succeedCode_draws (v : BitVec 31) : (s.succeedCode v).draws = s.draws := rfl
@[simp] theorem State.succeedCode_inputs (v : BitVec 31) : (s.succeedCode v).inputs = s.inputs := rfl
@[simp] theorem State.succeedCode_reply (v : BitVec 31) : (s.succeedCode v).reply = s.reply := rfl
@[simp] theorem State.succeedCode_capacity (v : BitVec 31) : (s.succeedCode v).capacity = s.capacity := rfl
@[simp] theorem State.succeedCode_outCapacity (v : BitVec 31) : (s.succeedCode v).outCapacity = s.outCapacity := rfl

/-! ### Success of `CMP` -/

@[simp] theorem State.succeedCompare_params (m : Bool) (n : BitVec 32) : (s.succeedCompare m n).params = s.params := rfl
@[simp] theorem State.succeedCompare_ctr (m : Bool) (n : BitVec 32) : (s.succeedCompare m n).ctr = s.ctr := rfl
@[simp] theorem State.succeedCompare_code (m : Bool) (n : BitVec 32) : (s.succeedCompare m n).code = s.code := rfl
@[simp] theorem State.succeedCompare_alen (m : Bool) (n : BitVec 32) : (s.succeedCompare m n).alen = s.alen := rfl
@[simp] theorem State.succeedCompare_blen (m : Bool) (n : BitVec 32) : (s.succeedCompare m n).blen = s.blen := rfl
@[simp] theorem State.succeedCompare_olen (m : Bool) (n : BitVec 32) : (s.succeedCompare m n).olen = s.olen := rfl
@[simp] theorem State.succeedCompare_matchFlag (m : Bool) (n : BitVec 32) : (s.succeedCompare m n).matchFlag = m := rfl
@[simp] theorem State.succeedCompare_err (m : Bool) (n : BitVec 32) : (s.succeedCompare m n).err = 0 := rfl
@[simp] theorem State.succeedCompare_scan (m : Bool) (n : BitVec 32) : (s.succeedCompare m n).scan = n := rfl
@[simp] theorem State.succeedCompare_abuf (m : Bool) (n : BitVec 32) : (s.succeedCompare m n).abuf = s.abuf := rfl
@[simp] theorem State.succeedCompare_bbuf (m : Bool) (n : BitVec 32) : (s.succeedCompare m n).bbuf = s.bbuf := rfl
@[simp] theorem State.succeedCompare_obuf (m : Bool) (n : BitVec 32) : (s.succeedCompare m n).obuf = s.obuf := rfl
@[simp] theorem State.succeedCompare_draws (m : Bool) (n : BitVec 32) : (s.succeedCompare m n).draws = s.draws := rfl
@[simp] theorem State.succeedCompare_inputs (m : Bool) (n : BitVec 32) : (s.succeedCompare m n).inputs = s.inputs := rfl
@[simp] theorem State.succeedCompare_reply (m : Bool) (n : BitVec 32) : (s.succeedCompare m n).reply = s.reply := rfl
@[simp] theorem State.succeedCompare_capacity (m : Bool) (n : BitVec 32) : (s.succeedCompare m n).capacity = s.capacity := rfl
@[simp] theorem State.succeedCompare_outCapacity (m : Bool) (n : BitVec 32) : (s.succeedCompare m n).outCapacity = s.outCapacity := rfl

/-! ### `CLR` -/

@[simp] theorem State.clearAll_params : (s.clearAll).params = s.params := rfl
@[simp] theorem State.clearAll_ctr : (s.clearAll).ctr = 0 := rfl
@[simp] theorem State.clearAll_code : (s.clearAll).code = 0 := rfl
@[simp] theorem State.clearAll_alen : (s.clearAll).alen = 0 := rfl
@[simp] theorem State.clearAll_blen : (s.clearAll).blen = 0 := rfl
@[simp] theorem State.clearAll_olen : (s.clearAll).olen = 0 := rfl
@[simp] theorem State.clearAll_matchFlag : (s.clearAll).matchFlag = false := rfl
@[simp] theorem State.clearAll_err : (s.clearAll).err = 0 := rfl
@[simp] theorem State.clearAll_scan : (s.clearAll).scan = 0 := rfl
@[simp] theorem State.clearAll_abuf : (s.clearAll).abuf = Memory.zeros := rfl
@[simp] theorem State.clearAll_bbuf : (s.clearAll).bbuf = Memory.zeros := rfl
@[simp] theorem State.clearAll_obuf : (s.clearAll).obuf = Memory.zeros := rfl
@[simp] theorem State.clearAll_draws : (s.clearAll).draws = s.draws := rfl
@[simp] theorem State.clearAll_inputs : (s.clearAll).inputs = s.inputs := rfl
@[simp] theorem State.clearAll_reply : (s.clearAll).reply = s.reply := rfl
@[simp] theorem State.clearAll_capacity : (s.clearAll).capacity = s.capacity := rfl
@[simp] theorem State.clearAll_outCapacity : (s.clearAll).outCapacity = s.outCapacity := rfl

/-! ### Reset -/

@[simp] theorem State.resetBlock_params : (s.resetBlock).params = s.params := rfl
@[simp] theorem State.resetBlock_ctr : (s.resetBlock).ctr = 0 := rfl
@[simp] theorem State.resetBlock_code : (s.resetBlock).code = 0 := rfl
@[simp] theorem State.resetBlock_alen : (s.resetBlock).alen = 0 := rfl
@[simp] theorem State.resetBlock_blen : (s.resetBlock).blen = 0 := rfl
@[simp] theorem State.resetBlock_olen : (s.resetBlock).olen = 0 := rfl
@[simp] theorem State.resetBlock_matchFlag : (s.resetBlock).matchFlag = false := rfl
@[simp] theorem State.resetBlock_err : (s.resetBlock).err = 0 := rfl
@[simp] theorem State.resetBlock_scan : (s.resetBlock).scan = 0 := rfl
@[simp] theorem State.resetBlock_abuf : (s.resetBlock).abuf = Memory.unspecified := rfl
@[simp] theorem State.resetBlock_bbuf : (s.resetBlock).bbuf = Memory.unspecified := rfl
@[simp] theorem State.resetBlock_obuf : (s.resetBlock).obuf = Memory.unspecified := rfl
@[simp] theorem State.resetBlock_draws : (s.resetBlock).draws = s.draws := rfl
@[simp] theorem State.resetBlock_inputs : (s.resetBlock).inputs = s.inputs := rfl
@[simp] theorem State.resetBlock_reply : (s.resetBlock).reply = s.reply := rfl
@[simp] theorem State.resetBlock_capacity : (s.resetBlock).capacity = s.capacity := rfl
@[simp] theorem State.resetBlock_outCapacity : (s.resetBlock).outCapacity = s.outCapacity := rfl

/-! ### Taking an input -/

@[simp] theorem State.takeInput_params (rest : List Input) : (s.takeInput rest).params = s.params := rfl
@[simp] theorem State.takeInput_ctr (rest : List Input) : (s.takeInput rest).ctr = s.ctr := rfl
@[simp] theorem State.takeInput_code (rest : List Input) : (s.takeInput rest).code = s.code := rfl
@[simp] theorem State.takeInput_alen (rest : List Input) : (s.takeInput rest).alen = s.alen := rfl
@[simp] theorem State.takeInput_blen (rest : List Input) : (s.takeInput rest).blen = s.blen := rfl
@[simp] theorem State.takeInput_olen (rest : List Input) : (s.takeInput rest).olen = s.olen := rfl
@[simp] theorem State.takeInput_matchFlag (rest : List Input) : (s.takeInput rest).matchFlag = s.matchFlag := rfl
@[simp] theorem State.takeInput_err (rest : List Input) : (s.takeInput rest).err = s.err := rfl
@[simp] theorem State.takeInput_scan (rest : List Input) : (s.takeInput rest).scan = s.scan := rfl
@[simp] theorem State.takeInput_abuf (rest : List Input) : (s.takeInput rest).abuf = s.abuf := rfl
@[simp] theorem State.takeInput_bbuf (rest : List Input) : (s.takeInput rest).bbuf = s.bbuf := rfl
@[simp] theorem State.takeInput_obuf (rest : List Input) : (s.takeInput rest).obuf = s.obuf := rfl
@[simp] theorem State.takeInput_draws (rest : List Input) : (s.takeInput rest).draws = s.draws + 1 := rfl
@[simp] theorem State.takeInput_inputs (rest : List Input) : (s.takeInput rest).inputs = rest := rfl
@[simp] theorem State.takeInput_reply (rest : List Input) : (s.takeInput rest).reply = s.reply := rfl
@[simp] theorem State.takeInput_capacity (rest : List Input) : (s.takeInput rest).capacity = s.capacity := rfl
@[simp] theorem State.takeInput_outCapacity (rest : List Input) : (s.takeInput rest).outCapacity = s.outCapacity := rfl

/-! ### `seta` -/

@[simp] theorem State.loadA_params (vs : List Byte) : (s.loadA vs).params = s.params := rfl
@[simp] theorem State.loadA_ctr (vs : List Byte) : (s.loadA vs).ctr = s.ctr := rfl
@[simp] theorem State.loadA_code (vs : List Byte) : (s.loadA vs).code = s.code := rfl
@[simp] theorem State.loadA_alen (vs : List Byte) : (s.loadA vs).alen = BitVec.ofNat 32 vs.length := rfl
@[simp] theorem State.loadA_blen (vs : List Byte) : (s.loadA vs).blen = s.blen := rfl
@[simp] theorem State.loadA_olen (vs : List Byte) : (s.loadA vs).olen = s.olen := rfl
@[simp] theorem State.loadA_matchFlag (vs : List Byte) : (s.loadA vs).matchFlag = s.matchFlag := rfl
@[simp] theorem State.loadA_err (vs : List Byte) : (s.loadA vs).err = s.err := rfl
@[simp] theorem State.loadA_scan (vs : List Byte) : (s.loadA vs).scan = s.scan := rfl
@[simp] theorem State.loadA_abuf (vs : List Byte) : (s.loadA vs).abuf = s.abuf.writeFrom 0 vs := rfl
@[simp] theorem State.loadA_bbuf (vs : List Byte) : (s.loadA vs).bbuf = s.bbuf := rfl
@[simp] theorem State.loadA_obuf (vs : List Byte) : (s.loadA vs).obuf = s.obuf := rfl
@[simp] theorem State.loadA_draws (vs : List Byte) : (s.loadA vs).draws = s.draws := rfl
@[simp] theorem State.loadA_inputs (vs : List Byte) : (s.loadA vs).inputs = s.inputs := rfl
@[simp] theorem State.loadA_reply (vs : List Byte) : (s.loadA vs).reply = s.reply := rfl
@[simp] theorem State.loadA_capacity (vs : List Byte) : (s.loadA vs).capacity = s.capacity := rfl
@[simp] theorem State.loadA_outCapacity (vs : List Byte) : (s.loadA vs).outCapacity = s.outCapacity := rfl

/-! ### `setb` -/

@[simp] theorem State.loadB_params (vs : List Byte) : (s.loadB vs).params = s.params := rfl
@[simp] theorem State.loadB_ctr (vs : List Byte) : (s.loadB vs).ctr = s.ctr := rfl
@[simp] theorem State.loadB_code (vs : List Byte) : (s.loadB vs).code = s.code := rfl
@[simp] theorem State.loadB_alen (vs : List Byte) : (s.loadB vs).alen = s.alen := rfl
@[simp] theorem State.loadB_blen (vs : List Byte) : (s.loadB vs).blen = BitVec.ofNat 32 vs.length := rfl
@[simp] theorem State.loadB_olen (vs : List Byte) : (s.loadB vs).olen = s.olen := rfl
@[simp] theorem State.loadB_matchFlag (vs : List Byte) : (s.loadB vs).matchFlag = s.matchFlag := rfl
@[simp] theorem State.loadB_err (vs : List Byte) : (s.loadB vs).err = s.err := rfl
@[simp] theorem State.loadB_scan (vs : List Byte) : (s.loadB vs).scan = s.scan := rfl
@[simp] theorem State.loadB_abuf (vs : List Byte) : (s.loadB vs).abuf = s.abuf := rfl
@[simp] theorem State.loadB_bbuf (vs : List Byte) : (s.loadB vs).bbuf = s.bbuf.writeFrom 0 vs := rfl
@[simp] theorem State.loadB_obuf (vs : List Byte) : (s.loadB vs).obuf = s.obuf := rfl
@[simp] theorem State.loadB_draws (vs : List Byte) : (s.loadB vs).draws = s.draws := rfl
@[simp] theorem State.loadB_inputs (vs : List Byte) : (s.loadB vs).inputs = s.inputs := rfl
@[simp] theorem State.loadB_reply (vs : List Byte) : (s.loadB vs).reply = s.reply := rfl
@[simp] theorem State.loadB_capacity (vs : List Byte) : (s.loadB vs).capacity = s.capacity := rfl
@[simp] theorem State.loadB_outCapacity (vs : List Byte) : (s.loadB vs).outCapacity = s.outCapacity := rfl

/-! ### `wra` -/

@[simp] theorem State.writeA_params (i : Nat) (v : Byte) : (s.writeA i v).params = s.params := rfl
@[simp] theorem State.writeA_ctr (i : Nat) (v : Byte) : (s.writeA i v).ctr = s.ctr := rfl
@[simp] theorem State.writeA_code (i : Nat) (v : Byte) : (s.writeA i v).code = s.code := rfl
@[simp] theorem State.writeA_alen (i : Nat) (v : Byte) : (s.writeA i v).alen = s.alen := rfl
@[simp] theorem State.writeA_blen (i : Nat) (v : Byte) : (s.writeA i v).blen = s.blen := rfl
@[simp] theorem State.writeA_olen (i : Nat) (v : Byte) : (s.writeA i v).olen = s.olen := rfl
@[simp] theorem State.writeA_matchFlag (i : Nat) (v : Byte) : (s.writeA i v).matchFlag = s.matchFlag := rfl
@[simp] theorem State.writeA_err (i : Nat) (v : Byte) : (s.writeA i v).err = s.err := rfl
@[simp] theorem State.writeA_scan (i : Nat) (v : Byte) : (s.writeA i v).scan = s.scan := rfl
@[simp] theorem State.writeA_abuf (i : Nat) (v : Byte) : (s.writeA i v).abuf = s.abuf.write i v := rfl
@[simp] theorem State.writeA_bbuf (i : Nat) (v : Byte) : (s.writeA i v).bbuf = s.bbuf := rfl
@[simp] theorem State.writeA_obuf (i : Nat) (v : Byte) : (s.writeA i v).obuf = s.obuf := rfl
@[simp] theorem State.writeA_draws (i : Nat) (v : Byte) : (s.writeA i v).draws = s.draws := rfl
@[simp] theorem State.writeA_inputs (i : Nat) (v : Byte) : (s.writeA i v).inputs = s.inputs := rfl
@[simp] theorem State.writeA_reply (i : Nat) (v : Byte) : (s.writeA i v).reply = s.reply := rfl
@[simp] theorem State.writeA_capacity (i : Nat) (v : Byte) : (s.writeA i v).capacity = s.capacity := rfl
@[simp] theorem State.writeA_outCapacity (i : Nat) (v : Byte) : (s.writeA i v).outCapacity = s.outCapacity := rfl

/-! ### `wrb` -/

@[simp] theorem State.writeB_params (i : Nat) (v : Byte) : (s.writeB i v).params = s.params := rfl
@[simp] theorem State.writeB_ctr (i : Nat) (v : Byte) : (s.writeB i v).ctr = s.ctr := rfl
@[simp] theorem State.writeB_code (i : Nat) (v : Byte) : (s.writeB i v).code = s.code := rfl
@[simp] theorem State.writeB_alen (i : Nat) (v : Byte) : (s.writeB i v).alen = s.alen := rfl
@[simp] theorem State.writeB_blen (i : Nat) (v : Byte) : (s.writeB i v).blen = s.blen := rfl
@[simp] theorem State.writeB_olen (i : Nat) (v : Byte) : (s.writeB i v).olen = s.olen := rfl
@[simp] theorem State.writeB_matchFlag (i : Nat) (v : Byte) : (s.writeB i v).matchFlag = s.matchFlag := rfl
@[simp] theorem State.writeB_err (i : Nat) (v : Byte) : (s.writeB i v).err = s.err := rfl
@[simp] theorem State.writeB_scan (i : Nat) (v : Byte) : (s.writeB i v).scan = s.scan := rfl
@[simp] theorem State.writeB_abuf (i : Nat) (v : Byte) : (s.writeB i v).abuf = s.abuf := rfl
@[simp] theorem State.writeB_bbuf (i : Nat) (v : Byte) : (s.writeB i v).bbuf = s.bbuf.write i v := rfl
@[simp] theorem State.writeB_obuf (i : Nat) (v : Byte) : (s.writeB i v).obuf = s.obuf := rfl
@[simp] theorem State.writeB_draws (i : Nat) (v : Byte) : (s.writeB i v).draws = s.draws := rfl
@[simp] theorem State.writeB_inputs (i : Nat) (v : Byte) : (s.writeB i v).inputs = s.inputs := rfl
@[simp] theorem State.writeB_reply (i : Nat) (v : Byte) : (s.writeB i v).reply = s.reply := rfl
@[simp] theorem State.writeB_capacity (i : Nat) (v : Byte) : (s.writeB i v).capacity = s.capacity := rfl
@[simp] theorem State.writeB_outCapacity (i : Nat) (v : Byte) : (s.writeB i v).outCapacity = s.outCapacity := rfl

/-! ### `setalen` -/

@[simp] theorem State.setAlen_params (n : BitVec 32) : (s.setAlen n).params = s.params := rfl
@[simp] theorem State.setAlen_ctr (n : BitVec 32) : (s.setAlen n).ctr = s.ctr := rfl
@[simp] theorem State.setAlen_code (n : BitVec 32) : (s.setAlen n).code = s.code := rfl
@[simp] theorem State.setAlen_alen (n : BitVec 32) : (s.setAlen n).alen = n := rfl
@[simp] theorem State.setAlen_blen (n : BitVec 32) : (s.setAlen n).blen = s.blen := rfl
@[simp] theorem State.setAlen_olen (n : BitVec 32) : (s.setAlen n).olen = s.olen := rfl
@[simp] theorem State.setAlen_matchFlag (n : BitVec 32) : (s.setAlen n).matchFlag = s.matchFlag := rfl
@[simp] theorem State.setAlen_err (n : BitVec 32) : (s.setAlen n).err = s.err := rfl
@[simp] theorem State.setAlen_scan (n : BitVec 32) : (s.setAlen n).scan = s.scan := rfl
@[simp] theorem State.setAlen_abuf (n : BitVec 32) : (s.setAlen n).abuf = s.abuf := rfl
@[simp] theorem State.setAlen_bbuf (n : BitVec 32) : (s.setAlen n).bbuf = s.bbuf := rfl
@[simp] theorem State.setAlen_obuf (n : BitVec 32) : (s.setAlen n).obuf = s.obuf := rfl
@[simp] theorem State.setAlen_draws (n : BitVec 32) : (s.setAlen n).draws = s.draws := rfl
@[simp] theorem State.setAlen_inputs (n : BitVec 32) : (s.setAlen n).inputs = s.inputs := rfl
@[simp] theorem State.setAlen_reply (n : BitVec 32) : (s.setAlen n).reply = s.reply := rfl
@[simp] theorem State.setAlen_capacity (n : BitVec 32) : (s.setAlen n).capacity = s.capacity := rfl
@[simp] theorem State.setAlen_outCapacity (n : BitVec 32) : (s.setAlen n).outCapacity = s.outCapacity := rfl

/-! ### `setblen` -/

@[simp] theorem State.setBlen_params (n : BitVec 32) : (s.setBlen n).params = s.params := rfl
@[simp] theorem State.setBlen_ctr (n : BitVec 32) : (s.setBlen n).ctr = s.ctr := rfl
@[simp] theorem State.setBlen_code (n : BitVec 32) : (s.setBlen n).code = s.code := rfl
@[simp] theorem State.setBlen_alen (n : BitVec 32) : (s.setBlen n).alen = s.alen := rfl
@[simp] theorem State.setBlen_blen (n : BitVec 32) : (s.setBlen n).blen = n := rfl
@[simp] theorem State.setBlen_olen (n : BitVec 32) : (s.setBlen n).olen = s.olen := rfl
@[simp] theorem State.setBlen_matchFlag (n : BitVec 32) : (s.setBlen n).matchFlag = s.matchFlag := rfl
@[simp] theorem State.setBlen_err (n : BitVec 32) : (s.setBlen n).err = s.err := rfl
@[simp] theorem State.setBlen_scan (n : BitVec 32) : (s.setBlen n).scan = s.scan := rfl
@[simp] theorem State.setBlen_abuf (n : BitVec 32) : (s.setBlen n).abuf = s.abuf := rfl
@[simp] theorem State.setBlen_bbuf (n : BitVec 32) : (s.setBlen n).bbuf = s.bbuf := rfl
@[simp] theorem State.setBlen_obuf (n : BitVec 32) : (s.setBlen n).obuf = s.obuf := rfl
@[simp] theorem State.setBlen_draws (n : BitVec 32) : (s.setBlen n).draws = s.draws := rfl
@[simp] theorem State.setBlen_inputs (n : BitVec 32) : (s.setBlen n).inputs = s.inputs := rfl
@[simp] theorem State.setBlen_reply (n : BitVec 32) : (s.setBlen n).reply = s.reply := rfl
@[simp] theorem State.setBlen_capacity (n : BitVec 32) : (s.setBlen n).capacity = s.capacity := rfl
@[simp] theorem State.setBlen_outCapacity (n : BitVec 32) : (s.setBlen n).outCapacity = s.outCapacity := rfl

/-! ### `setctr` -/

@[simp] theorem State.setCtr_params (c : BitVec 64) : (s.setCtr c).params = s.params := rfl
@[simp] theorem State.setCtr_ctr (c : BitVec 64) : (s.setCtr c).ctr = c := rfl
@[simp] theorem State.setCtr_code (c : BitVec 64) : (s.setCtr c).code = s.code := rfl
@[simp] theorem State.setCtr_alen (c : BitVec 64) : (s.setCtr c).alen = s.alen := rfl
@[simp] theorem State.setCtr_blen (c : BitVec 64) : (s.setCtr c).blen = s.blen := rfl
@[simp] theorem State.setCtr_olen (c : BitVec 64) : (s.setCtr c).olen = s.olen := rfl
@[simp] theorem State.setCtr_matchFlag (c : BitVec 64) : (s.setCtr c).matchFlag = s.matchFlag := rfl
@[simp] theorem State.setCtr_err (c : BitVec 64) : (s.setCtr c).err = s.err := rfl
@[simp] theorem State.setCtr_scan (c : BitVec 64) : (s.setCtr c).scan = s.scan := rfl
@[simp] theorem State.setCtr_abuf (c : BitVec 64) : (s.setCtr c).abuf = s.abuf := rfl
@[simp] theorem State.setCtr_bbuf (c : BitVec 64) : (s.setCtr c).bbuf = s.bbuf := rfl
@[simp] theorem State.setCtr_obuf (c : BitVec 64) : (s.setCtr c).obuf = s.obuf := rfl
@[simp] theorem State.setCtr_draws (c : BitVec 64) : (s.setCtr c).draws = s.draws := rfl
@[simp] theorem State.setCtr_inputs (c : BitVec 64) : (s.setCtr c).inputs = s.inputs := rfl
@[simp] theorem State.setCtr_reply (c : BitVec 64) : (s.setCtr c).reply = s.reply := rfl
@[simp] theorem State.setCtr_capacity (c : BitVec 64) : (s.setCtr c).capacity = s.capacity := rfl
@[simp] theorem State.setCtr_outCapacity (c : BitVec 64) : (s.setCtr c).outCapacity = s.outCapacity := rfl

/-! ### `setcode` -/

@[simp] theorem State.setCode_params (c : BitVec 32) : (s.setCode c).params = s.params := rfl
@[simp] theorem State.setCode_ctr (c : BitVec 32) : (s.setCode c).ctr = s.ctr := rfl
@[simp] theorem State.setCode_code (c : BitVec 32) : (s.setCode c).code = c.setWidth 31 := rfl
@[simp] theorem State.setCode_alen (c : BitVec 32) : (s.setCode c).alen = s.alen := rfl
@[simp] theorem State.setCode_blen (c : BitVec 32) : (s.setCode c).blen = s.blen := rfl
@[simp] theorem State.setCode_olen (c : BitVec 32) : (s.setCode c).olen = s.olen := rfl
@[simp] theorem State.setCode_matchFlag (c : BitVec 32) : (s.setCode c).matchFlag = s.matchFlag := rfl
@[simp] theorem State.setCode_err (c : BitVec 32) : (s.setCode c).err = s.err := rfl
@[simp] theorem State.setCode_scan (c : BitVec 32) : (s.setCode c).scan = s.scan := rfl
@[simp] theorem State.setCode_abuf (c : BitVec 32) : (s.setCode c).abuf = s.abuf := rfl
@[simp] theorem State.setCode_bbuf (c : BitVec 32) : (s.setCode c).bbuf = s.bbuf := rfl
@[simp] theorem State.setCode_obuf (c : BitVec 32) : (s.setCode c).obuf = s.obuf := rfl
@[simp] theorem State.setCode_draws (c : BitVec 32) : (s.setCode c).draws = s.draws := rfl
@[simp] theorem State.setCode_inputs (c : BitVec 32) : (s.setCode c).inputs = s.inputs := rfl
@[simp] theorem State.setCode_reply (c : BitVec 32) : (s.setCode c).reply = s.reply := rfl
@[simp] theorem State.setCode_capacity (c : BitVec 32) : (s.setCode c).capacity = s.capacity := rfl
@[simp] theorem State.setCode_outCapacity (c : BitVec 32) : (s.setCode c).outCapacity = s.outCapacity := rfl

/-! ### Answering a read -/

@[simp] theorem State.answer_params (r : Reply) : (s.answer r).params = s.params := rfl
@[simp] theorem State.answer_ctr (r : Reply) : (s.answer r).ctr = s.ctr := rfl
@[simp] theorem State.answer_code (r : Reply) : (s.answer r).code = s.code := rfl
@[simp] theorem State.answer_alen (r : Reply) : (s.answer r).alen = s.alen := rfl
@[simp] theorem State.answer_blen (r : Reply) : (s.answer r).blen = s.blen := rfl
@[simp] theorem State.answer_olen (r : Reply) : (s.answer r).olen = s.olen := rfl
@[simp] theorem State.answer_matchFlag (r : Reply) : (s.answer r).matchFlag = s.matchFlag := rfl
@[simp] theorem State.answer_err (r : Reply) : (s.answer r).err = s.err := rfl
@[simp] theorem State.answer_scan (r : Reply) : (s.answer r).scan = s.scan := rfl
@[simp] theorem State.answer_abuf (r : Reply) : (s.answer r).abuf = s.abuf := rfl
@[simp] theorem State.answer_bbuf (r : Reply) : (s.answer r).bbuf = s.bbuf := rfl
@[simp] theorem State.answer_obuf (r : Reply) : (s.answer r).obuf = s.obuf := rfl
@[simp] theorem State.answer_draws (r : Reply) : (s.answer r).draws = s.draws := rfl
@[simp] theorem State.answer_inputs (r : Reply) : (s.answer r).inputs = s.inputs := rfl
@[simp] theorem State.answer_reply (r : Reply) : (s.answer r).reply = r := rfl
@[simp] theorem State.answer_capacity (r : Reply) : (s.answer r).capacity = s.capacity := rfl
@[simp] theorem State.answer_outCapacity (r : Reply) : (s.answer r).outCapacity = s.outCapacity := rfl

end Sys2Proof.Machine
end

