-- ==== Sys2Proof/Laws/Ops.lean ====
section
/-! SUPPORT. What each shared operation and each command can do, said once: later proofs cite these and unfold no
meaning. -/

namespace Sys2Proof.Machine

/-! ## Operands -/

@[simp] theorem State.length_operandA (s : State) : s.operandA.length = s.alen.toNat := by
  simp [State.operandA]

@[simp] theorem State.length_operandB (s : State) : s.operandB.length = s.blen.toNat := by
  simp [State.operandB]

theorem State.getElem_operandA (s : State) (i : Nat) (h : i < s.operandA.length) : s.operandA[i] = s.readA i := by
  simp [State.operandA]

theorem State.getElem_operandB (s : State) (i : Nat) (h : i < s.operandB.length) : s.operandB[i] = s.readB i := by
  simp [State.operandB]

theorem State.mem_operandA (s : State) (c : Byte) : c ∈ s.operandA ↔ ∃ a, a < s.alen.toNat ∧ s.readA a = c := by
  simp [State.operandA]

@[simp] theorem length_decimalText (d r : Nat) : (decimalText d r).length = d := by
  induction d generalizing r with
  | zero => rfl
  | succ d ih => simp [decimalText, ih]

@[simp] theorem length_counterMessage (c : BitVec 64) : (counterMessage c).length = 8 := by
  simp [counterMessage]

/-! ## Completions -/

/-- No error completion touches the operands or what lies outside the block. -/
theorem State.raise_operands (s : State) (slot : ResultSlot) (e : ErrCode) :
    (s.raise slot e).ctr = s.ctr ∧ (s.raise slot e).code = s.code ∧ (s.raise slot e).alen = s.alen ∧
      (s.raise slot e).blen = s.blen ∧ (s.raise slot e).abuf = s.abuf ∧ (s.raise slot e).bbuf = s.bbuf ∧
      (s.raise slot e).params = s.params ∧ (s.raise slot e).draws = s.draws ∧ (s.raise slot e).inputs = s.inputs ∧
      (s.raise slot e).reply = s.reply := by
  cases slot <;> simp

@[simp] theorem State.raise_err (s : State) (slot : ResultSlot) (e : ErrCode) : (s.raise slot e).err = e.bits := by
  cases slot <;> rfl

/-- The length register of a string result, when the string is short enough for it. -/
theorem State.olen_succeedOutput_toNat (s : State) (vs : List Byte) (h : vs.length < 2 ^ 32) :
    (s.succeedOutput vs).olen.toNat = vs.length := by
  simpa using Nat.mod_eq_of_lt h

/-- A byte of a string result reads as that byte of the string. -/
theorem State.readO_succeedOutput (s : State) (vs : List Byte) (a : Nat) (h : a < vs.length) :
    (s.succeedOutput vs).readO a = vs[a] := by
  simp [State.readO, Memory.read_ofBytes, h]

/-- What the host reads back of a string result is the string. -/
theorem State.result_succeedOutput (s : State) (vs : List Byte) (h : vs.length < 2 ^ 32) :
    (s.succeedOutput vs).result = vs := by
  unfold State.result
  rw [State.olen_succeedOutput_toNat s vs h]
  apply List.ext_getElem
  · simp
  · intro i h1 h2
    simp [State.readO_succeedOutput s vs i h2]

/-! ## One line per way a command can end -/

/-- `B32ENC` rejects a length beyond the capacity, or answers the text of its operand. -/
theorem execB32enc_cases (s t : State) (h : exec .b32enc s = .next t) :
    (s.capacity < s.alen.toNat ∧ t = s.raise .output .input) ∨
      (s.alen.toNat ≤ s.capacity ∧ t = s.succeedOutput (base32Encode s.operandA)) := by
  simp only [exec, execB32enc] at h
  split at h
  · next hn => exact .inl ⟨hn, (Host.Outcome.next.inj h).symm⟩
  · next hn => exact .inr ⟨Nat.le_of_not_lt hn, (Host.Outcome.next.inj h).symm⟩

/-- `B32DEC` rejects a length, rejects a character, or answers the bytes of its operand. -/
theorem execB32dec_cases (s t : State) (h : exec .b32dec s = .next t) :
    (s.capacity < s.alen.toNat ∧ t = s.raise .output .input) ∨
      (s.alen.toNat ≤ s.capacity ∧ base32Decode s.operandA = none ∧ t = s.raise .output .encoding) ∨
      ∃ bytes, s.alen.toNat ≤ s.capacity ∧ base32Decode s.operandA = some bytes ∧ t = s.succeedOutput bytes := by
  simp only [exec, execB32dec] at h
  split at h
  · next hn => exact .inl ⟨hn, (Host.Outcome.next.inj h).symm⟩
  · next hn =>
    split at h
    · next hd => exact .inr (.inl ⟨Nat.le_of_not_lt hn, hd, (Host.Outcome.next.inj h).symm⟩)
    · next bytes hd => exact .inr (.inr ⟨bytes, Nat.le_of_not_lt hn, hd, (Host.Outcome.next.inj h).symm⟩)

/-- `CTRENC` answers the counter's message. -/
theorem execCtrenc_cases (s t : State) (h : exec .ctrenc s = .next t) :
    t = s.succeedOutput (counterMessage s.ctr) :=
  (Host.Outcome.next.inj h).symm

/-- `DTRUNC` rejects the selector, rejects the length, or answers the code. -/
theorem execDtrunc_cases (alg : AlgSel) (s t : State) (h : exec (.dtrunc alg) s = .next t) :
    (supportedHash alg = none ∧ t = s.raise .code .config) ∨
      (∃ k, supportedHash alg = some k ∧ s.alen.toNat ≠ digestLength k ∧ t = s.raise .code .input) ∨
      ∃ k, supportedHash alg = some k ∧ s.alen.toNat = digestLength k ∧
        t = s.succeedCode (s.truncate (digestLength k)) := by
  simp only [exec, execDtrunc] at h
  split at h
  · next hk => exact .inl ⟨hk, (Host.Outcome.next.inj h).symm⟩
  · next k hk =>
    split at h
    · next hl => exact .inr (.inr ⟨k, hk, hl, (Host.Outcome.next.inj h).symm⟩)
    · next hl => exact .inr (.inl ⟨k, hk, hl, (Host.Outcome.next.inj h).symm⟩)

/-- `DFMT` rejects a digit count of 0 or answers the decimal text. -/
theorem execDfmt_cases (d : Nat) (s t : State) (h : exec (.dfmt d) s = .next t) :
    (d = 0 ∧ t = s.raise .output .config) ∨ (d ≠ 0 ∧ t = s.succeedOutput (decimalText d s.code.toNat)) := by
  simp only [exec, execDfmt] at h
  split at h
  · next hd => exact .inl ⟨hd, (Host.Outcome.next.inj h).symm⟩
  · next hd => exact .inr ⟨hd, (Host.Outcome.next.inj h).symm⟩

/-- `CMP` rejects a length, scans strings of one length, or answers "not equal" for two lengths. -/
theorem execCmp_cases (s t : State) (h : exec .cmp s = .next t) :
    ((s.capacity < s.alen.toNat ∨ s.capacity < s.blen.toNat) ∧ t = s.raise .compare .input) ∨
      (s.alen.toNat ≤ s.capacity ∧ s.blen.toNat ≤ s.capacity ∧ s.alen = s.blen ∧
        t = s.succeedCompare (matchOf s.operandA s.operandB) (scanOf s.operandA s.operandB)) ∨
      (s.alen.toNat ≤ s.capacity ∧ s.blen.toNat ≤ s.capacity ∧ s.alen ≠ s.blen ∧ t = s.succeedCompare false 0) := by
  simp only [exec, execCmp] at h
  split at h
  · next hn => exact .inl ⟨hn, (Host.Outcome.next.inj h).symm⟩
  · next hn =>
    rw [not_or, Nat.not_lt, Nat.not_lt] at hn
    split at h
    · next he => exact .inr (.inl ⟨hn.1, hn.2, he, (Host.Outcome.next.inj h).symm⟩)
    · next he => exact .inr (.inr ⟨hn.1, hn.2, he, (Host.Outcome.next.inj h).symm⟩)

/-- `CLR` zeroes everything. -/
theorem execClr_cases (s t : State) (h : exec .clr s = .next t) : t = s.clearAll :=
  (Host.Outcome.next.inj h).symm

/-- Every command answers a next state, in every state. -/
theorem exec_next (i : Instr) (s : State) : ∃ t, exec i s = .next t := by
  cases i <;> simp only [exec, execB32enc, execB32dec, execCtrenc, execDtrunc, execDfmt, execCmp, execClr]
  case b32enc => split <;> exact ⟨_, rfl⟩
  case b32dec =>
    split
    · exact ⟨_, rfl⟩
    · split <;> exact ⟨_, rfl⟩
  case ctrenc => exact ⟨_, rfl⟩
  case dtrunc alg =>
    split
    · exact ⟨_, rfl⟩
    · split <;> exact ⟨_, rfl⟩
  case dfmt d => split <;> exact ⟨_, rfl⟩
  case cmp =>
    split
    · exact ⟨_, rfl⟩
    · split <;> exact ⟨_, rfl⟩
  case clr => exact ⟨_, rfl⟩

end Sys2Proof.Machine
end

