-- ==== Sys2Proof/Laws/PerInstr.lean ====
section
/-! SUPPORT. Per instruction, as syntax: its word belongs to its own row of the opcode map (30_encoding.md R72). -/

namespace Sys2Proof.Laws

/-- The word of a command carries the match bits of the command's row under the row's mask, and its row stands in the
opcode map. -/
def OpcodeBits.Statement (i : Instr) : Prop :=
  i.row.selects (encode i) = true ∧ i.row ∈ opcodeMap

theorem OpcodeBits.b32enc : OpcodeBits.Statement .b32enc := by unfold Statement; decide
theorem OpcodeBits.b32dec : OpcodeBits.Statement .b32dec := by unfold Statement; decide
theorem OpcodeBits.ctrenc : OpcodeBits.Statement .ctrenc := by unfold Statement; decide

theorem OpcodeBits.dtrunc (alg : AlgSel) : OpcodeBits.Statement (.dtrunc alg) := by
  unfold Statement; cases alg <;> decide

theorem OpcodeBits.dfmt (digits : Nat) : OpcodeBits.Statement (.dfmt digits) := by
  have h : ∀ x : BitVec 4, (Instr.row (.dfmt 0)).selects (0x5#4 ++ x) = true := by decide
  exact ⟨h (BitVec.ofNat 4 digits), show Instr.row (.dfmt 0) ∈ opcodeMap by decide⟩

theorem OpcodeBits.cmp : OpcodeBits.Statement .cmp := by unfold Statement; decide
theorem OpcodeBits.clr : OpcodeBits.Statement .clr := by unfold Statement; decide

end Sys2Proof.Laws
end

