-- ==== Sys2Proof/Laws/Step.lean ====
section
/-! SUPPORT. What one step can do, said once. -/

namespace Sys2Proof.Machine

/-- With no input waiting the block holds its state. -/
theorem step_idle (s : State) (h : s.inputs = []) : step s = .next s := by
  simp [step, h]

/-- With an input waiting the step performs the oldest. -/
theorem step_input (s : State) (x : Input) (rest : List Input) (h : s.inputs = x :: rest) :
    step s = performInput x (s.takeInput rest) := by
  simp [step, h]

/-- A word written to `CMD`: a command's meaning, or `ERR_ILLEGAL` and nothing else. -/
theorem executeWord_cases (w : BitVec 8) (s t : State) (h : executeWord w s = .next t) :
    (∃ i, decode w = .command i ∧ exec i s = .next t) ∨ (decode w = .illegal ∧ t = s.raise .nothing .illegal) := by
  unfold executeWord at h
  split at h
  · next i hd => exact .inl ⟨i, hd, h⟩
  · next hd => exact .inr ⟨hd, (Host.Outcome.next.inj h).symm⟩

/-- Every word has a step. -/
theorem executeWord_next (w : BitVec 8) (s : State) : ∃ t, executeWord w s = .next t := by
  unfold executeWord
  split
  · exact exec_next _ s
  · exact ⟨_, rfl⟩

/-- The effect of a move always ends in a next state. -/
theorem moveEffect_next (m : HostMove) (s : State) : ∃ t, moveEffect m s = .next t := by
  cases m
  case cmd w => exact executeWord_next w s
  all_goals exact ⟨_, rfl⟩

/-- A move the host has takes its effect. -/
theorem hostMove_allowed (m : HostMove) (s : State) (h : moveAllowed m s = true) : hostMove m s = moveEffect m s := by
  simp [hostMove, h]

/-- A move the host does not have is refused. -/
theorem hostMove_refused (m : HostMove) (s : State) (h : moveAllowed m s = false) :
    hostMove m s = .refused .hostMoveUnavailable := by
  simp [hostMove, h]

/-- A step to a next state: idle, an allowed move, or reset. -/
theorem step_cases (s t : State) (h : step s = .next t) :
    (s.inputs = [] ∧ t = s) ∨
      ∃ x rest, s.inputs = x :: rest ∧
        ((∃ m, x = .host m ∧ moveAllowed m (s.takeInput rest) = true ∧
            moveEffect m (s.takeInput rest) = .next t) ∨
          (x = .reset ∧ t = (s.takeInput rest).resetBlock)) := by
  cases hs : s.inputs with
  | nil =>
    rw [step_idle s hs] at h
    exact .inl ⟨rfl, (Host.Outcome.next.inj h).symm⟩
  | cons x rest =>
    rw [step_input s x rest hs] at h
    refine .inr ⟨x, rest, rfl, ?_⟩
    cases x with
    | reset => exact .inr ⟨rfl, (Host.Outcome.next.inj h).symm⟩
    | host m =>
      refine .inl ⟨m, rfl, ?_⟩
      cases ha : moveAllowed m (s.takeInput rest) with
      | false => simp [performInput, hostMove, ha] at h
      | true => exact ⟨rfl, by simpa [performInput, hostMove, ha] using h⟩

/-- A host's move made now, as one step. -/
theorem hostDoes_eq (m : HostMove) (s : State) : hostDoes m s = hostMove m (s.takeInput s.inputs) := by
  rfl

@[simp] theorem andThen_next {α β : Type} (a : α) (f : α → Host.Outcome β Fault Refusal) :
    andThen (.next a) f = f a := rfl

/-- An unsupported selector ends a call at once, the block untouched (45_host_flows.md R167). -/
@[simp] theorem withSupported_alg3 {α : Type} (s : State) (go : Hash → Flow α) :
    withSupported .alg3 s go = .next (s, .error (ErrCode.bits .config)) := rfl

/-- A supported algorithm passes the check of its selector. -/
@[simp] theorem withSupported_selectorOf {α : Type} (h : Hash) (s : State) (go : Hash → Flow α) :
    withSupported (selectorOf h) s go = go h := by
  cases h <;> rfl

/-- An empty argument ends a call at once, the block untouched (45_host_flows.md R172). -/
theorem withNonEmpty_empty {α : Type} (arguments : List (List Byte)) (s : State) (go : Flow α) (h : [] ∈ arguments) :
    withNonEmpty arguments s go = .next (s, .error (ErrCode.bits .input)) :=
  if_pos h

/-- Arguments of which none is empty pass the check. -/
theorem withNonEmpty_pass {α : Type} (arguments : List (List Byte)) (s : State) (go : Flow α) (h : [] ∉ arguments) :
    withNonEmpty arguments s go = go :=
  if_neg h

/-- A chain that ends in a next state went through one. -/
theorem andThen_eq_next {α β : Type} (o : Host.Outcome α Fault Refusal) (f : α → Host.Outcome β Fault Refusal) (b : β)
    (h : andThen o f = .next b) : ∃ a, o = .next a ∧ f a = .next b := by
  cases o with
  | next a => exact ⟨a, rfl, h⟩
  | fault r => cases h
  | refused r => cases h

end Sys2Proof.Machine
end

