-- ==== Sys2Proof/Tests/Slice0.lean ====
section
/-! SUPPORT. The model's own tests: expected values are those of spec/95_test_vectors.md or written out from the rule
named. Then one witness for the hypotheses of every statement that has any. -/

namespace Sys2Proof.Tests

open Machine

/-! ## Helpers -/

/-- ASCII text (00_scope.md R9). -/
def ascii (t : String) : List Byte :=
  t.toList.map fun c => BitVec.ofNat 8 c.toNat

/-- The reset state after `seta a`, `setb b`. -/
def loaded (a b : List Byte) : State :=
  (State.reset.loadA a).loadB b

/-- `ERR` and the result of a command that goes on. -/
def output : Host.Outcome State Fault Refusal → Option (BitVec 3 × List Byte)
  | .next t => some (t.err, t.result)
  | .fault _ => none
  | .refused _ => none

/-- `ERR` and `CODE` of a command that goes on. -/
def codeOf : Host.Outcome State Fault Refusal → Option (BitVec 3 × BitVec 31)
  | .next t => some (t.err, t.code)
  | .fault _ => none
  | .refused _ => none

/-- `ERR`, `MATCH` and `SCAN` of a command that goes on. -/
def verdict : Host.Outcome State Fault Refusal → Option (BitVec 3 × Bool × BitVec 32)
  | .next t => some (t.err, t.matchFlag, t.scan)
  | .fault _ => none
  | .refused _ => none

/-- TRN1 of spec/95_test_vectors.md 2.4. -/
def trn1 : List Byte :=
  [0xCC, 0x93, 0xCF, 0x18, 0x50, 0x8D, 0x94, 0x93, 0x4C, 0x64] ++
  [0xB6, 0x5D, 0x8B, 0xA7, 0x66, 0x7F, 0xB7, 0xCD, 0xE4, 0xB0]

/-- A digest whose last nibble is 15 and whose selected bytes are at 15 to 18 (TRN3's corner, the largest offset). -/
def lastOffset : List Byte :=
  List.replicate 15 0x00 ++ [0x81, 0x02, 0x03, 0x04, 0xAF]

/-! ## Well-formedness: each check refuses an ill-formed term -/

theorem test_dfmt_16_is_ill_formed : (Instr.dfmt 16).wellFormed = false := by decide
theorem test_dfmt_15_is_well_formed : (Instr.dfmt 15).wellFormed = true := by decide

/-! ## Decoding: words written out bit by bit from 30_encoding.md R72 and R73; illegal words from
spec/95_test_vectors.md 2.7 -/

theorem test_decode_b32enc : decode 0b00010000 = .command .b32enc := by decide
theorem test_decode_b32dec : decode 0b00100000 = .command .b32dec := by decide
theorem test_decode_ctrenc : decode 0b00110000 = .command .ctrenc := by decide
theorem test_decode_dtrunc_sha256 : decode 0b01000001 = .command (.dtrunc .sha256) := by decide
theorem test_decode_dtrunc_alg3 : decode 0b01000011 = .command (.dtrunc .alg3) := by decide
theorem test_decode_dfmt_15 : decode 0b01011111 = .command (.dfmt 15) := by decide
theorem test_decode_cmp : decode 0b01100000 = .command .cmp := by decide
theorem test_decode_clr : decode 0b01110000 = .command .clr := by decide
theorem test_decode_illegal :
    [0x00, 0x11, 0x44, 0x4F, 0x61, 0x71, 0x80, 0xFF].map decode = List.replicate 8 .illegal := by decide

theorem test_decode_table_word : decodeTableWord 8 0x42 = some (.dtrunc .sha512) := by decide
theorem test_decode_table_word_illegal : decodeTableWord 8 0x00 = none := by decide

/-! ## One command each -/

/-- ENC5: three pad bits. -/
theorem test_b32enc_foob :
    output (exec .b32enc (loaded [0x66, 0x6F, 0x6F, 0x62] [])) = some (0, ascii "MZXW6YQ") := by decide
/-- The length check, `ALEN` = `N` + 1. -/
theorem test_b32enc_too_long : output (exec .b32enc (State.reset.setAlen 65)) = some (1, []) := by decide
/-- DEC19: mixed whitespace. -/
theorem test_b32dec_whitespace :
    output (exec .b32dec (loaded [0x4D, 0x5A, 0x0A, 0x58, 0x57, 0x20, 0x36, 0x79, 0x09, 0x54, 0x62] []))
      = some (0, [0x66, 0x6F, 0x6F, 0x62, 0x61]) := by decide
/-- DEC29: a padding character is foreign. -/
theorem test_b32dec_padding : output (exec .b32dec (loaded (ascii "MZXW6===") [])) = some (2, []) := by decide
/-- CTR5. -/
theorem test_ctrenc_order :
    output (exec .ctrenc (State.reset.setCtr 0x0123456789ABCDEF))
      = some (0, [0x01, 0x23, 0x45, 0x67, 0x89, 0xAB, 0xCD, 0xEF]) := by decide
/-- TRN1: offset 0, the first byte masked. -/
theorem test_dtrunc_trn1 : codeOf (exec (.dtrunc .sha1) (loaded trn1 [])) = some (0, 1284755224) := by decide
/-- The largest offset, 15, by R130: 0x01020304. -/
theorem test_dtrunc_last_offset :
    codeOf (exec (.dtrunc .sha1) (loaded lastOffset [])) = some (0, 0x01020304) := by decide
/-- FMT17: the leading zero is kept. -/
theorem test_dfmt_leading_zero :
    output (exec (.dfmt 8) (State.reset.setCode 907081804)) = some (0, ascii "07081804") := by decide
/-- FMT16: more digits than the code has. -/
theorem test_dfmt_15_digits :
    output (exec (.dfmt 15) (State.reset.setCode 2147483647)) = some (0, ascii "000002147483647") := by decide
/-- CMP8: the differences do not cancel. -/
theorem test_cmp_no_cancelling :
    verdict (exec .cmp (loaded [0x01, 0x02] [0x02, 0x01])) = some (0, false, 2) := by decide
/-- CMP2 and, by the length alone, CMP6. -/
theorem test_cmp_equal_and_shorter :
    verdict (exec .cmp (loaded (ascii "287082") (ascii "287082"))) = some (0, true, 6) ∧
    verdict (exec .cmp (loaded (ascii "28708") (ascii "287082"))) = some (0, false, 0) := by decide
/-- ILL1: everything is zero after `CLR`, a byte never written included. -/
theorem test_clr :
    exec .clr (loaded (ascii "GEZDGNBV") [0x01])
      = .next { State.reset with abuf := .zeros, bbuf := .zeros, obuf := .zeros } := rfl

/-! ## Host moves and steps -/

/-- A zero written over a zero fill leaves the list; over an unspecified fill it stays (R56, R160; log entry 3). -/
theorem test_write_canonical :
    (Memory.zeros.write 3 7).write 3 0 = .zeros ∧ (Memory.unspecified.write 3 0).cells = [(3, 0)] := by decide
/-- A host write of `CODE` stores the value modulo `2^31` (R22). -/
theorem test_setcode_drops_bit_31 : codeOf (hostMove (.setcode 0x80000005) State.reset) = some (0, 5) := by decide
/-- The last byte of `ABUF` is there, the next is not (R51, R61). -/
theorem test_wra_at_the_end :
    hostMove (.wra 63 9) State.reset = .next (State.reset.writeA 63 9) ∧
    hostMove (.wra 64 9) State.reset = .refused .hostMoveUnavailable := ⟨rfl, rfl⟩
/-- `OBUF` ends at `NO` = 103 (spec/95_test_vectors.md 3), not at `N`. -/
theorem test_rdo_at_the_end :
    moveAllowed (.rdo 102) State.reset = true ∧ moveAllowed (.rdo 103) State.reset = false := by decide
/-- The placed word runs in the next step: `dfmt 1` of code 0 is "0" (spec/95_test_vectors.md P3 line 10). -/
theorem test_step_runs_the_placed_word :
    output (step (State.reset.withFetchWord 8 0x51)) = some (0, [0x30]) := by decide
/-- P3 line 5: an illegal word. -/
theorem test_step_illegal_word : output (step (State.reset.withFetchWord 8 0x00)) = some (4, []) := by decide

/-! ## The flows, with the digest of S1 (spec/95_test_vectors.md 1) for every HMAC -/

/-- The HMAC-SHA-1 digest of S1; zeros of the right length for the other algorithms. -/
def s1Hmac : Hmac
  | .sha1, _, _ =>
    ⟨#[0x75, 0xA4, 0x8A, 0x19, 0xD4, 0xCB, 0xE1, 0x00, 0x64, 0x4E, 0x8A, 0xC1, 0x39, 0x7E, 0xEA, 0x74, 0x7A, 0x2D,
      0x33, 0xAB], rfl⟩
  | .sha256, _, _ => Vector.replicate 32 0
  | .sha512, _, _ => Vector.replicate 64 0

/-- What a token flow hands back: 0 and the token, or the code that ended it and nothing. -/
def tokenOf : Flow (List Byte) → Option (BitVec 3 × List Byte)
  | .next (_, .ok v) => some (0, v)
  | .next (_, .error e) => some (e, [])
  | .fault _ => none
  | .refused _ => none

/-- What a verification hands back. -/
def answerOf : Flow Bool → Option (BitVec 3 × Bool)
  | .next (_, .ok v) => some (0, v)
  | .next (_, .error e) => some (e, false)
  | .fault _ => none
  | .refused _ => none

/-- S1's secret. -/
def s1Secret : List Byte :=
  ascii "GEZDGNBVGY3TQOJQGEZDGNBVGY3TQOJQ"

/-- S1: the token of time 59. -/
theorem test_totp_s1 :
    tokenOf (totp s1Hmac s1Secret 59 30 6 .sha1 State.reset) = some (0, ascii "287082") := by decide +kernel
/-- S1 with a grouped candidate (R170): accepted. -/
theorem test_verify_grouped :
    answerOf (verifyTotp s1Hmac s1Secret (ascii "287 082") 59 0 30 6 .sha1 State.reset) = some (0, true) := by
  decide +kernel
/-- S8: "000000" is not the token. -/
theorem test_verify_rejects :
    answerOf (verifyTotp s1Hmac s1Secret (ascii "000000") 59 0 30 6 .sha1 State.reset) = some (0, false) := by
  decide +kernel
/-- R168: the decoding error ends the flow. -/
theorem test_totp_propagates_decode_errors :
    tokenOf (totp s1Hmac (ascii "M1") 59 30 6 .sha1 State.reset) = some (2, []) := by decide +kernel
/-- U9: a negative time is refused. -/
theorem test_totp_negative_time :
    totp s1Hmac s1Secret (-1) 30 6 .sha1 State.reset = .refused .flowUndefined := rfl
/-- R172: an empty secret is found before the block is used, by HOTP and TOTP. -/
theorem test_empty_secret :
    tokenOf (checkedHotp s1Hmac [] 1 6 .sha1 State.reset) = some (1, []) ∧
    tokenOf (checkedTotp s1Hmac [] 59 30 6 .sha1 State.reset) = some (1, []) := by decide
/-- R172: an empty token is found before the block is used. -/
theorem test_empty_token :
    answerOf (checkedVerify s1Hmac s1Secret [] 59 1 30 6 .sha1 State.reset) = some (1, false) := by decide
/-- R167: selector 3 is rejected before `ctrenc`, so the block is as it was. -/
theorem test_unsupported_selector :
    checkedHotp s1Hmac s1Secret 1 6 .alg3 (State.reset.setCtr 9) = .next (State.reset.setCtr 9, .error 3) := rfl
/-- S1 through the checked entry. -/
theorem test_checked_totp_s1 :
    tokenOf (checkedTotp s1Hmac s1Secret 59 30 6 .sha1 State.reset) = some (0, ascii "287082") := by decide +kernel

/-! ## Witnesses: for every statement with hypotheses, a state and operands that meet them all -/

/-- A state that is not the reset state: both operands loaded, a result in `OBUF`, inputs waiting. -/
def busy : State :=
  { loaded [0x66] [0x66] with
    obuf := .ofBytes [0x4D, 0x59], olen := 2, scan := 1, err := 3
    inputs := [.host (.cmd 0x10), .reset] }

/-- `busy` meets the invariant. -/
theorem busy_inv : Inv busy where
  admitted := by decide
  abufWf := by decide
  bbufWf := by decide
  obufWf := by decide
  abufWithin := by decide
  bbufWithin := by decide
  obufWithin := by decide
  olenLe := by decide
  resultKnown := by decide
  scanLe := by decide
  errLe := by decide

/-- A string as long as `ABUF` (`N` = 64). -/
def fullString : List Byte :=
  List.replicate 64 0x41

/-- The same state with everything outside the read set of `B32ENC` different. -/
def busyElsewhere : State :=
  { busy with ctr := 7, code := 7, blen := 9, olen := 0, matchFlag := true, scan := 0, bbuf := .zeros, obuf := .zeros }

theorem witness_ResetZeroesRegistersAndForgetsBuffers :
    ∃ t, t = State.resetWith { capacity := 2 ^ 28 } := ⟨_, rfl⟩

theorem witness_ResetInputRestoresTheResetState :
    ({ busy with inputs := [.reset] } : State).inputs = .reset :: [] := rfl

theorem witness_DecoderFollowsTheOpcodeMap :
    decode 0x43 = .command (.dtrunc .alg3) ∧ decode 0x50 = .command (.dfmt 0) ∧ decode 0x5F = .command (.dfmt 15) ∧
      Instr.row .clr ∈ opcodeMap ∧ (Instr.row .clr).selects 0x70 = true := by decide

theorem witness_ResetMeetsInvariant :
    Params.Admitted { capacity := 64 } ∧ Params.Admitted { capacity := 2 ^ 28 } := by decide

theorem witness_FirstCommandAfterReset :
    Params.Admitted { capacity := 65 } ∧ (1 ≤ 1 ∧ 1 ≤ 15) ∧ (1 ≤ 15 ∧ 15 ≤ 15) := by decide

theorem witness_StepKeepsInvariant : Inv busy ∧ ∃ t, step busy = .next t := ⟨busy_inv, _, rfl⟩

theorem witness_StepRunsTheDecodedCommand :
    busy.inputs = .host (.cmd 0x10) :: [.reset] ∧ decode 0x10 = .command .b32enc ∧ decode 0x00 = .illegal ∧
      0 < 256 ∧ 255 < 256 ∧ decode (BitVec.ofNat 8 0) = .illegal ∧ decode (BitVec.ofNat 8 255) = .illegal ∧
      decode (BitVec.ofNat 8 0x10) = .command .b32enc := by decide

theorem witness_StepTakesTheOldestInput :
    State.reset.inputs = [] ∧ busy.inputs = .host (.cmd 0x10) :: [.reset] ∧ (∃ t, step busy = .next t) ∧
      ({ busy with inputs := [.reset] } : State).inputs = .reset :: [] :=
  ⟨rfl, rfl, ⟨_, rfl⟩, rfl⟩

theorem witness_OnlyMissingMovesAreRefused :
    moveAllowed (.rda 63) busy = true ∧ moveAllowed (.rda 64) busy = false := by decide

theorem witness_HostReadsChangeNothing :
    0 < busy.capacity ∧ 63 < busy.capacity ∧ 102 < busy.outCapacity := by decide

theorem witness_HostWritesTakeEffect : 0 < busy.capacity ∧ 63 < busy.capacity ∧ (0 : Nat) ≠ 63 := by decide

theorem witness_StringMoveIsItsSeparateMoves : ([] : List Byte).length ≤ busy.capacity ∧
    fullString.length ≤ busy.capacity := by decide

theorem witness_StringMoveLoadsTheOperand :
    busy.params.Admitted ∧ fullString.length ≤ busy.capacity ∧ fullString.length ≤ 64 := by decide

theorem witness_DecodeInvertsEncode :
    (Instr.dfmt 0).wellFormed = true ∧ (Instr.dfmt 15).wellFormed = true ∧ decode 0x5F = .command (.dfmt 15) := by
  decide

/-- The ends of each range of the illegal words. -/
theorem witness_IllegalWordChangesOnlyErr :
    ∀ w ∈ [0x00, 0x0F, 0x80, 0xFF, 0x11, 0x1F, 0x71, 0x7F, 0x44, 0x4F], IllegalWord w := by decide

theorem witness_CompletionCodeIsTheListedCause : decode 0x00 = .illegal ∧ decode 0xFF = .illegal := by decide

/-- An error of every command that has one. -/
theorem witness_ErrorCompletionWithholdsTheResult :
    (∀ i ∈ [Instr.b32enc, .b32dec, .dfmt 0, .dtrunc .sha1, .dtrunc .alg3, .cmp],
      ∃ t, exec i (busy.setAlen 65) = .next t ∧ t.err ≠ 0) ∧ decode 0x4F = .illegal := by
  refine ⟨?_, by decide⟩
  simp only [List.forall_mem_cons, List.not_mem_nil, false_implies, implies_true, and_true]
  exact ⟨⟨_, rfl, by decide⟩, ⟨_, rfl, by decide⟩, ⟨_, rfl, by decide⟩, ⟨_, rfl, by decide⟩, ⟨_, rfl, by decide⟩,
    _, rfl, by decide⟩

theorem witness_ErrIsNeverSticky : ∃ t, executeWord 0x00 busy = .next t := ⟨_, rfl⟩

theorem witness_OutputCommandsFrame :
    busy.params.Admitted ∧
      ∀ i ∈ [Instr.b32enc, .b32dec, .ctrenc, .dfmt 0, .dfmt 15], i.wellFormed = true ∧ ∃ t, exec i busy = .next t := by
  refine ⟨by decide, ?_⟩
  simp only [List.forall_mem_cons, List.not_mem_nil, false_implies, implies_true, and_true]
  exact ⟨⟨rfl, _, rfl⟩, ⟨rfl, _, rfl⟩, ⟨rfl, _, rfl⟩, ⟨rfl, _, rfl⟩, rfl, _, rfl⟩

theorem witness_DtruncFrame :
    (∃ t, exec (.dtrunc .sha1) (loaded trn1 []) = .next t) ∧ ∃ t, exec (.dtrunc .alg3) busy = .next t :=
  ⟨⟨_, rfl⟩, _, rfl⟩

theorem witness_CmpFrame : ∃ t, exec .cmp busy = .next t := ⟨_, rfl⟩

theorem witness_OnlyTheListedCommandsWrite :
    (∃ t, executeWord 0x60 busy = .next t) ∧ (0x60 : BitVec 8) ≠ 0x70 ∧ (0x60 : BitVec 8) ∉ [0x40, 0x41, 0x42] ∧
      (0x60 : BitVec 8) ∉ [0x10, 0x20, 0x30] ∧ (0x60 : BitVec 8) &&& 0xF0 ≠ 0x50 ∧
      (∃ t, executeWord 0x43 busy = .next t) ∧ (0x43 : BitVec 8) ∉ [0x40, 0x41, 0x42] ∧ (0x43 : BitVec 8) ≠ 0x60 :=
  ⟨⟨_, rfl⟩, by decide, by decide, by decide, by decide, ⟨_, rfl⟩, by decide, by decide⟩

theorem witness_ResultsDependOnlyOnTheReadSet :
    AgreeOnReads .b32enc busy busyElsewhere ∧ busy ≠ busyElsewhere ∧
      (∃ t, exec .b32enc busy = .next t) ∧ ∃ t, exec .b32enc busyElsewhere = .next t :=
  ⟨⟨rfl, rfl, fun _ _ => rfl⟩, by decide, ⟨_, rfl⟩, _, rfl⟩

theorem witness_KnownOperandsHideTheDraw :
    (∀ a, a < busy.alen.toNat → busy.abuf.specified a = true) ∧
      (∀ a, a < busy.blen.toNat → busy.bbuf.specified a = true) ∧
      (∃ t, exec .cmp busy = .next t) ∧ ∃ t, exec .cmp { busy with draws := 9 } = .next t :=
  ⟨by decide, by decide, ⟨_, rfl⟩, _, rfl⟩

theorem witness_AlphabetIsPositional :
    0 < 32 ∧ 31 < 32 ∧ symbolValue 0x41 = some 0 ∧ symbolValue 0x5A = some 25 ∧ symbolValue 0x32 = some 26 ∧
      symbolValue 0x37 = some 31 := by decide

/-- An empty, a one-byte and a full operand, with a first and a last symbol. -/
theorem witness_B32encMatchesClosedForm :
    State.reset.params.Admitted ∧ State.reset.alen.toNat ≤ State.reset.capacity ∧
      busy.params.Admitted ∧ busy.alen.toNat ≤ busy.capacity ∧ 0 < textLength busy.alen.toNat ∧
      1 < textLength busy.alen.toNat ∧ (busy.setAlen 64).alen.toNat ≤ (busy.setAlen 64).capacity := by decide

theorem witness_B32encLength :
    busy.params.Admitted ∧ busy.alen.toNat ≤ busy.capacity ∧
      (busy.setAlen 64).alen.toNat ≤ (busy.setAlen 64).capacity := by decide

theorem witness_B32encEmitsOnlyTheAlphabet :
    busy.params.Admitted ∧ busy.alen.toNat ≤ busy.capacity ∧
      ∃ t, exec .b32enc busy = .next t ∧ 0 < t.olen.toNat ∧ 1 < t.olen.toNat := by
  exact ⟨by decide, by decide, _, rfl, by decide, by decide⟩

theorem witness_AccumulatorStaysInTwelveBits :
    (decodeText emptyQueue (ascii "my 7")).isSome = true ∧ 0 < 32 ∧ 31 < 32 := by decide

theorem witness_B32decMatchesClosedForm :
    (loaded (ascii "m Y") []).params.Admitted ∧
      (loaded (ascii "m Y") []).alen.toNat ≤ (loaded (ascii "m Y") []).capacity ∧
      validText (loaded (ascii "m Y") []).operandA = true ∧
      0 < 5 * (stripped (loaded (ascii "m Y") []).operandA).length / 8 := by decide

theorem witness_B32decLength :
    busy.params.Admitted ∧ (loaded (ascii "MY") []).alen.toNat ≤ (loaded (ascii "MY") []).capacity ∧
      validText (loaded (ascii "MY") []).operandA = true ∧
      2 = (stripped (loaded (ascii "MY") []).operandA).length := by decide

/-- "MY" and "MZ" (40_base32.md R106): the numbers differ, and agree above the two dropped bits. -/
theorem witness_TrailingBitsAreDropped :
    (loaded (ascii "MY") []).params.Admitted ∧ (loaded (ascii "MZ") []).params.Admitted ∧
      (loaded (ascii "MY") []).alen.toNat ≤ (loaded (ascii "MY") []).capacity ∧
      (loaded (ascii "MZ") []).alen.toNat ≤ (loaded (ascii "MZ") []).capacity ∧
      validText (loaded (ascii "MY") []).operandA = true ∧ validText (loaded (ascii "MZ") []).operandA = true ∧
      2 = (stripped (loaded (ascii "MY") []).operandA).length ∧
      2 = (stripped (loaded (ascii "MZ") []).operandA).length ∧
      bigEndian 5 (symbolAt (loaded (ascii "MY") []).operandA) 2 / 2 ^ (5 * 2 % 8)
        = bigEndian 5 (symbolAt (loaded (ascii "MZ") []).operandA) 2 / 2 ^ (5 * 2 % 8) := by
  refine ⟨by decide, by decide, by decide, by decide, by decide, by decide, by decide, by decide, ?_⟩
  simp only [bigEndian, Finset.sum_range_succ, Finset.sum_range_zero]
  decide

/-- The ends of each range of the foreign bytes, and operands with and without one. -/
theorem witness_ForeignByteFailsTheDecoding :
    (∀ c ∈ ([0x00, 0x08, 0x0E, 0x1F, 0x21, 0x31, 0x38, 0x40, 0x5B, 0x60, 0x7B, 0xFF] : List Byte), ForeignByte c) ∧
      (∀ c ∈ ([0x09, 0x0D, 0x20, 0x32, 0x37, 0x41, 0x5A, 0x61, 0x7A] : List Byte), ¬ ForeignByte c) ∧
      (loaded (ascii "M1") []).alen.toNat ≤ (loaded (ascii "M1") []).capacity ∧
      ForeignByte ((loaded (ascii "M1") []).readA 1) ∧ ¬ ForeignByte ((loaded (ascii "M1") []).readA 0) := by
  refine ⟨by decide, by decide, by decide, by decide, by decide⟩

theorem witness_WhitespaceAndCaseAreIgnored :
    (loaded (ascii "m Y") []).alen.toNat ≤ (loaded (ascii "m Y") []).capacity ∧
      (loaded (ascii "My") []).alen.toNat ≤ (loaded (ascii "My") []).capacity ∧
      (stripped (loaded (ascii "m Y") []).operandA).map upperCase
        = (stripped (loaded (ascii "My") []).operandA).map upperCase := by decide

/-- The longest operand the round trip takes for `N` = 64 is 40 bytes. -/
theorem witness_Base32RoundTrip :
    busy.params.Admitted ∧ busy.alen.toNat ≤ 5 * busy.capacity / 8 ∧
      (busy.setAlen 40).alen.toNat ≤ 5 * (busy.setAlen 40).capacity / 8 := by decide

theorem witness_EncodingIsOneToOne :
    busy.params.Admitted ∧ busyElsewhere.params.Admitted ∧ busy.alen.toNat ≤ busy.capacity ∧
      busyElsewhere.alen.toNat ≤ busyElsewhere.capacity ∧
      ∃ t t', exec .b32enc busy = .next t ∧ exec .b32enc busyElsewhere = .next t' ∧ t.result = t'.result := by
  exact ⟨by decide, by decide, by decide, by decide, _, _, rfl, rfl, by decide⟩

theorem witness_CtrencLaysOutTheCounter : (0 : Nat) < 8 ∧ (7 : Nat) < 8 := by decide

theorem witness_CounterMessageIsABijection :
    (List.replicate 8 (0xFF : Byte)).length = 8 ∧ (State.reset.setCtr 1).ctr = 1 := by decide

theorem witness_DtruncExtractsTheCode :
    (AlgSel.sha1, 20, (0x40 : BitVec 8))
        ∈ [(AlgSel.sha1, 20, 0x40), (AlgSel.sha256, 32, 0x41), (AlgSel.sha512, 64, 0x42)] ∧
      (loaded trn1 []).alen.toNat = 20 ∧ (State.reset.setAlen 32).alen.toNat = 32 ∧
      (State.reset.setAlen 64).alen.toNat = 64 ∧ (State.reset.setAlen 19).alen.toNat ≠ 20 ∧
      (State.reset.setAlen 21).alen.toNat ≠ 20 := by decide

/-- Two digests that differ in the high nibble of the last byte, in bit 7 of the first selected byte and in a byte
that is not selected. -/
theorem witness_CodeDependsOnFiveBytes :
    ∃ s t : State, s ≠ t ∧ supportedHash .sha1 = some .sha1 ∧
      s.alen.toNat = digestLength .sha1 ∧ t.alen.toNat = digestLength .sha1 ∧
      (s.readA (digestLength .sha1 - 1)).toNat % 16 = (t.readA (digestLength .sha1 - 1)).toNat % 16 ∧
      ∀ off, off = (s.readA (digestLength .sha1 - 1)).toNat % 16 →
        (s.readA off).toNat % 128 = (t.readA off).toNat % 128 ∧ s.readA (off + 1) = t.readA (off + 1) ∧
          s.readA (off + 2) = t.readA (off + 2) ∧ s.readA (off + 3) = t.readA (off + 3) := by
  refine ⟨loaded lastOffset [], loaded (List.replicate 15 0x55 ++ [0x01, 0x02, 0x03, 0x04, 0x0F]) [], by decide,
    by decide, by decide, by decide, by decide, ?_⟩
  rintro off rfl
  decide

theorem witness_DfmtMatchesClosedForm :
    (1 ≤ 1 ∧ 1 ≤ 15) ∧ (1 ≤ 15 ∧ 15 ≤ 15) ∧ (0 < 15 ∧ 14 < 15) := by decide

theorem witness_DfmtDigitInvariant :
    ∃ t u, exec (.dfmt 1) busy = .next t ∧ t.err = 0 ∧ exec (.dfmt 15) busy = .next u ∧ u.err = 0 ∧ 15 ≤ 15 :=
  ⟨_, _, rfl, by decide, rfl, by decide, by decide⟩

theorem witness_DfmtLargeDigitCounts : (10 ≤ 10 ∧ 10 ≤ 15) ∧ (10 ≤ 15 ∧ 15 ≤ 15) := by decide

/-- Lengths at the capacity, and each one beyond it. -/
theorem witness_CmpDecidesEquality :
    ((busy.setAlen 64).setBlen 64).alen.toNat ≤ busy.capacity ∧
      ((busy.setAlen 64).setBlen 64).blen.toNat ≤ busy.capacity ∧
      busy.capacity < (busy.setAlen 65).alen.toNat ∧ busy.capacity < (busy.setBlen 65).blen.toNat := by decide

theorem witness_ScanDependsOnLengthsOnly :
    busy.params = busyElsewhere.params ∧ busy.alen = busyElsewhere.alen ∧ busy.blen = (busyElsewhere.setBlen 1).blen ∧
      (∃ t, exec .cmp busy = .next t) ∧ (∃ t, exec .cmp (busyElsewhere.setBlen 1) = .next t) ∧
      busy.alen.toNat ≤ busy.capacity ∧ busy.alen = busy.blen :=
  ⟨rfl, rfl, rfl, ⟨_, rfl⟩, ⟨_, rfl⟩, by decide, rfl⟩

theorem witness_CmpIsSymmetric :
    ∃ s t : State, s ≠ t ∧ s.params = t.params ∧ s.alen = t.blen ∧ s.blen = t.alen ∧ s.operandA = t.operandB ∧
      s.operandB = t.operandA ∧ (∃ s', exec .cmp s = .next s') ∧ ∃ t', exec .cmp t = .next t' :=
  ⟨loaded [1, 2] [3], loaded [3] [1, 2], by decide, rfl, rfl, rfl, by decide, by decide, ⟨_, rfl⟩, _, rfl⟩

theorem witness_HotpIsTheTruncatedHmac : Inv busy ∧ 1 ≤ 1 ∧ 15 ≤ 15 := ⟨busy_inv, by decide, by decide⟩

/-- S1's flow: window 1, the token of the offset 0 and the ends of the window. -/
theorem witness_VerifyAcceptsTokensOfTheWindow :
    Inv busy ∧ s1Secret.length ≤ busy.capacity ∧ (-((1 : Nat) : Int) ≤ -1 ∧ (-1 : Int) ≤ (1 : Nat)) ∧
      (-((1 : Nat) : Int) ≤ 1 ∧ (1 : Int) ≤ (1 : Nat)) ∧ (0 : Int) ≤ 59 - (1 : Nat) * (30 : Nat) ∧
      (tokenOf (totp s1Hmac s1Secret (59 + -1 * (30 : Nat)) 30 6 .sha1 busy)).map Prod.fst = some 0 :=
  ⟨busy_inv, by decide, by decide, by decide, by decide, by decide +kernel⟩

theorem witness_VerifyWithoutWindowDecidesEquality :
    Inv busy ∧ (ascii "287-082").length ≤ busy.capacity ∧
      tokenOf (totp s1Hmac s1Secret 59 30 6 .sha1 busy) = some (0, ascii "287082") :=
  ⟨busy_inv, by decide, by decide +kernel⟩

theorem witness_HostChecksPrecedeTheBlock : s1Secret ≠ [] ∧ ascii "287082" ≠ [] ∧ ([] : List Byte) = [] := by decide

theorem witness_MismatchedAlgorithmIsCaught : busy.params.Admitted ∧ Hash.sha1 ≠ Hash.sha256 := by decide

end Sys2Proof.Tests
end

section
/-! SUPPORT. The equation of each way a command can end: from the condition to the completion, where Laws/Ops.lean goes
from the completion to the condition. -/

namespace Sys2Proof.Machine

variable (s : State)

theorem exec_b32enc_of_tooLong (h : s.capacity < s.alen.toNat) :
    exec .b32enc s = .next (s.raise .output .input) := by
  simp [exec, execB32enc, h]

theorem exec_b32enc_of_fits (h : s.alen.toNat ≤ s.capacity) :
    exec .b32enc s = .next (s.succeedOutput (base32Encode s.operandA)) := by
  simp [exec, execB32enc, Nat.not_lt.mpr h]

theorem exec_b32dec_of_tooLong (h : s.capacity < s.alen.toNat) :
    exec .b32dec s = .next (s.raise .output .input) := by
  simp [exec, execB32dec, h]

theorem exec_b32dec_of_invalid (h : s.alen.toNat ≤ s.capacity) (hd : base32Decode s.operandA = none) :
    exec .b32dec s = .next (s.raise .output .encoding) := by
  simp [exec, execB32dec, Nat.not_lt.mpr h, hd]

theorem exec_b32dec_of_valid (bytes : List Byte) (h : s.alen.toNat ≤ s.capacity)
    (hd : base32Decode s.operandA = some bytes) : exec .b32dec s = .next (s.succeedOutput bytes) := by
  simp [exec, execB32dec, Nat.not_lt.mpr h, hd]

theorem exec_dtrunc_of_unsupported (alg : AlgSel) (h : supportedHash alg = none) :
    exec (.dtrunc alg) s = .next (s.raise .code .config) := by
  simp [exec, execDtrunc, h]

theorem exec_dtrunc_of_wrongLength (alg : AlgSel) (k : Hash) (h : supportedHash alg = some k)
    (hl : s.alen.toNat ≠ digestLength k) : exec (.dtrunc alg) s = .next (s.raise .code .input) := by
  simp [exec, execDtrunc, h, hl]

theorem exec_dtrunc_of_digest (alg : AlgSel) (k : Hash) (h : supportedHash alg = some k)
    (hl : s.alen.toNat = digestLength k) :
    exec (.dtrunc alg) s = .next (s.succeedCode (s.truncate (digestLength k))) := by
  simp [exec, execDtrunc, h, hl]

theorem exec_dfmt_zero : exec (.dfmt 0) s = .next (s.raise .output .config) := rfl

theorem exec_dfmt_of_ne_zero (d : Nat) (h : d ≠ 0) :
    exec (.dfmt d) s = .next (s.succeedOutput (decimalText d s.code.toNat)) := by
  simp [exec, execDfmt, h]

theorem exec_cmp_of_tooLong (h : s.capacity < s.alen.toNat ∨ s.capacity < s.blen.toNat) :
    exec .cmp s = .next (s.raise .compare .input) := by
  simp [exec, execCmp, h]

theorem exec_cmp_of_eq_length (ha : s.alen.toNat ≤ s.capacity) (hb : s.blen.toNat ≤ s.capacity)
    (he : s.alen = s.blen) :
    exec .cmp s = .next (s.succeedCompare (matchOf s.operandA s.operandB) (scanOf s.operandA s.operandB)) := by
  have hn : ¬ (s.capacity < s.alen.toNat ∨ s.capacity < s.blen.toNat) := by omega
  simp only [exec, execCmp, if_neg hn, if_pos he]

theorem exec_cmp_of_ne_length (ha : s.alen.toNat ≤ s.capacity) (hb : s.blen.toNat ≤ s.capacity)
    (he : s.alen ≠ s.blen) : exec .cmp s = .next (s.succeedCompare false 0) := by
  have hn : ¬ (s.capacity < s.alen.toNat ∨ s.capacity < s.blen.toNat) := by omega
  simp only [exec, execCmp, if_neg hn, if_neg he]

end Sys2Proof.Machine
end

section
/-! SUPPORT. How long the results are: the Base32 codec's loops count bits, the comparator counts pairs, and no result
outgrows its register or its buffer. -/

namespace Sys2Proof.Machine

/-! ## The encoder -/

@[simp] theorem emitSymbol_nb (q : BitQueue) : (emitSymbol q).nb = q.nb - 5 := rfl

@[simp] theorem length_emitSymbol_out (q : BitQueue) : (emitSymbol q).out.length = q.out.length + 1 := by
  simp [emitSymbol]

/-- A byte brings 8 bits into the encoder; every bit is in a symbol or, fewer than 5 of them, still buffered. -/
theorem encodeByte_bits (q : BitQueue) (b : Byte) (h : q.nb < 5) :
    (encodeByte q b).nb < 5 ∧
      5 * (encodeByte q b).out.length + (encodeByte q b).nb = 5 * q.out.length + q.nb + 8 := by
  by_cases h2 : q.nb < 2
  · rw [encodeByte_once q b h2]
    simp only [emitSymbol_nb, length_emitSymbol_out]
    omega
  · rw [encodeByte_twice q b (by omega) (by omega)]
    simp only [emitSymbol_nb, length_emitSymbol_out]
    omega

/-- The encoder's loop loses no bit of its input (40_base32.md R96). -/
theorem encodeBytes_bits (bs : List Byte) :
    (encodeBytes bs).nb < 5 ∧ 5 * (encodeBytes bs).out.length + (encodeBytes bs).nb = 8 * bs.length := by
  induction bs using List.reverseRecOn with
  | nil => simp [emptyQueue]
  | append_singleton bs b ih =>
    obtain ⟨hnb, hbits⟩ := ih
    obtain ⟨hnb', hbits'⟩ := encodeByte_bits (encodeBytes bs) b hnb
    rw [encodeBytes_append, List.length_append, List.length_singleton]
    omega

theorem length_finalSymbol (q : BitQueue) : (finalSymbol q).length = if 0 < q.nb then 1 else 0 := by
  unfold finalSymbol
  split <;> rfl

/-- The text of `n` bytes has `textLength n` characters (40_base32.md R98). -/
@[simp] theorem length_base32Encode (bs : List Byte) : (base32Encode bs).length = textLength bs.length := by
  obtain ⟨hnb, hbits⟩ := encodeBytes_bits bs
  rw [base32Encode, List.length_append, length_finalSymbol, textLength]
  split <;> omega

/-! ## The decoder -/

@[simp] theorem stripped_nil : stripped [] = [] := rfl

theorem stripped_cons_whitespace (c : Byte) (cs : List Byte) (h : isWhitespace c = true) :
    stripped (c :: cs) = stripped cs := by
  simp [stripped, h]

theorem stripped_cons_symbol (c : Byte) (cs : List Byte) (h : isWhitespace c = false) :
    stripped (c :: cs) = c :: stripped cs := by
  simp [stripped, h]

theorem length_stripped_le (text : List Byte) : (stripped text).length ≤ text.length :=
  List.length_filter_le _ text

/-- A symbol brings 5 bits into the decoder; every bit is in a byte or, fewer than 8 of them, still buffered. -/
theorem takeSymbol_bits (q : BitQueue) (v : Nat) (h : q.nb < 8) :
    (takeSymbol q v).nb < 8 ∧
      8 * (takeSymbol q v).out.length + (takeSymbol q v).nb = 8 * q.out.length + q.nb + 5 := by
  simp only [takeSymbol]
  split
  · simp only [List.length_append, List.length_singleton]
    omega
  · dsimp only
    omega

/-- The decoder's loop loses no bit of the symbols (40_base32.md R103). -/
theorem decodeText_bits (text : List Byte) (q q' : BitQueue) (h : q.nb < 8) (hd : decodeText q text = some q') :
    q'.nb < 8 ∧ 8 * q'.out.length + q'.nb = 8 * q.out.length + q.nb + 5 * (stripped text).length := by
  induction text generalizing q with
  | nil =>
    obtain rfl : q = q' := Option.some.inj hd
    exact ⟨h, rfl⟩
  | cons c cs ih =>
    cases hw : isWhitespace c with
    | true =>
      rw [decodeText_whitespace q c cs hw] at hd
      rw [stripped_cons_whitespace c cs hw]
      exact ih q h hd
    | false =>
      cases hv : symbolValue (upperCase c) with
      | none => simp [decodeText_foreign q c cs hw hv] at hd
      | some v =>
        rw [decodeText_symbol q c cs v hw hv] at hd
        obtain ⟨hnb, hbits⟩ := takeSymbol_bits q v h
        obtain ⟨hnb', hbits'⟩ := ih (takeSymbol q v) hnb hd
        rw [stripped_cons_symbol c cs hw, List.length_cons]
        omega

/-- The decoding of `n` symbols has `floor(5*n/8)` bytes (40_base32.md R105). -/
theorem length_of_base32Decode (text bytes : List Byte) (h : base32Decode text = some bytes) :
    bytes.length = 5 * (stripped text).length / 8 := by
  obtain ⟨q, hq, rfl⟩ := Option.map_eq_some_iff.mp h
  obtain ⟨hnb, hbits⟩ := decodeText_bits text emptyQueue q (by decide) hq
  simp only [emptyQueue, List.length_nil] at hbits
  omega

/-! ## The comparator -/

/-- With operands of one length the pairs counted are that length (10_state.md R29). -/
theorem scanOf_operands (s : State) (h : s.alen = s.blen) : scanOf s.operandA s.operandB = s.alen := by
  have hcount := (comparePairs_spec s.operandA s.operandB 0 0 (by simp [h])).2
  rw [scanOf, hcount, Nat.zero_add, s.length_operandA, BitVec.ofNat_toNat, BitVec.setWidth_eq]

/-! ## The capacities -/

theorem State.textLength_le_outCapacity (s : State) {n : Nat} (h : n ≤ s.capacity) :
    textLength n ≤ s.outCapacity := by
  unfold State.capacity at h
  unfold textLength State.outCapacity Params.outCapacity
  omega

theorem State.capacity_le_outCapacity (s : State) : s.capacity ≤ s.outCapacity := by
  unfold State.capacity State.outCapacity Params.outCapacity
  omega

theorem State.fifteen_le_outCapacity (s : State) : 15 ≤ s.outCapacity :=
  le_max_right _ _

/-- Every length of a result fits the 32 bits of `OLEN` (10_state.md R25). -/
theorem State.outCapacity_lt (s : State) (h : s.params.Admitted) : s.outCapacity < 2 ^ 32 := by
  obtain ⟨hlow, hhigh⟩ := h
  unfold State.outCapacity Params.outCapacity
  omega

end Sys2Proof.Machine
end

section
/-! SUPPORT. The invariant: it holds at reset, and every operation of the block and the host keeps it. -/

namespace Sys2Proof.Machine

/-! ## Reset -/

/-- Reset meets the invariant for every admitted capacity (10_state.md R37). -/
theorem inv_resetWith (p : Params) (h : p.Admitted) : Inv (State.resetWith p) where
  admitted := h
  abufWf := rfl
  bbufWf := rfl
  obufWf := rfl
  abufWithin := rfl
  bbufWithin := rfl
  obufWithin := rfl
  olenLe := Nat.zero_le _
  resultKnown := fun i hi => absurd hi (Nat.not_lt_zero i)
  scanLe := Nat.zero_le _
  errLe := Nat.zero_le _

/-- Settles O3: `inv_resetWith` at every admitted capacity, and at 64. -/
theorem resetMeetsInvariant : Obligations.ResetMeetsInvariant :=
  ⟨inv_resetWith, inv_resetWith _ ⟨by decide, by decide⟩⟩

/-! ## The host's end -/

section

variable {s : State}

/-- The reset input leaves the registers and buffers of `State.resetWith`. -/
theorem Inv.resetBlock (h : Inv s) : Inv s.resetBlock :=
  { inv_resetWith s.params h.admitted with }

theorem Inv.takeInput (h : Inv s) (rest : List Input) : Inv (s.takeInput rest) := { h with }

theorem Inv.setAlen (h : Inv s) (n : BitVec 32) : Inv (s.setAlen n) := { h with }

theorem Inv.setBlen (h : Inv s) (n : BitVec 32) : Inv (s.setBlen n) := { h with }

theorem Inv.setCtr (h : Inv s) (c : BitVec 64) : Inv (s.setCtr c) := { h with }

theorem Inv.setCode (h : Inv s) (c : BitVec 32) : Inv (s.setCode c) := { h with }

theorem Inv.answer (h : Inv s) (r : Reply) : Inv (s.answer r) := { h with }

theorem Inv.loadA (h : Inv s) (vs : List Byte) (hl : vs.length ≤ s.capacity) : Inv (s.loadA vs) :=
  { h with
    abufWf := Memory.wf_writeFrom vs _ 0 h.abufWf
    abufWithin := Memory.within_writeFrom s.capacity vs _ 0 h.abufWithin (by omega) }

theorem Inv.loadB (h : Inv s) (vs : List Byte) (hl : vs.length ≤ s.capacity) : Inv (s.loadB vs) :=
  { h with
    bbufWf := Memory.wf_writeFrom vs _ 0 h.bbufWf
    bbufWithin := Memory.within_writeFrom s.capacity vs _ 0 h.bbufWithin (by omega) }

theorem Inv.writeA (h : Inv s) (i : Nat) (v : Byte) (hi : i < s.capacity) : Inv (s.writeA i v) :=
  { h with
    abufWf := Memory.wf_write _ i v h.abufWf
    abufWithin := Memory.within_write _ i v s.capacity h.abufWithin hi }

theorem Inv.writeB (h : Inv s) (i : Nat) (v : Byte) (hi : i < s.capacity) : Inv (s.writeB i v) :=
  { h with
    bbufWf := Memory.wf_write _ i v h.bbufWf
    bbufWithin := Memory.within_write _ i v s.capacity h.bbufWithin hi }

/-! ## Completions -/

theorem ErrCode.bits_le_four (e : ErrCode) : e.bits.toNat ≤ 4 := by
  cases e <;> decide

/-- An error completion withholds the result, and no register leaves its range (60_exceptions.md R184). -/
theorem Inv.raise (h : Inv s) (slot : ResultSlot) (e : ErrCode) : Inv (s.raise slot e) := by
  have he := e.bits_le_four
  cases slot with
  | output =>
    exact { h with
      obufWf := rfl
      obufWithin := rfl
      olenLe := Nat.zero_le _
      resultKnown := fun i hi => absurd hi (Nat.not_lt_zero i)
      errLe := he }
  | code => exact { h with errLe := he }
  | compare => exact { h with scanLe := Nat.zero_le _, errLe := he }
  | nothing => exact { h with errLe := he }

/-- A string result that fits `OBUF` is known up to `OLEN` (10_state.md R25, R32). -/
theorem Inv.succeedOutput (h : Inv s) (vs : List Byte) (hl : vs.length ≤ s.outCapacity) :
    Inv (s.succeedOutput vs) := by
  have holen := s.olen_succeedOutput_toNat vs (hl.trans_lt (s.outCapacity_lt h.admitted))
  exact { h with
    obufWf := Memory.wf_ofBytes vs
    obufWithin := Memory.within_ofBytes vs _ hl
    olenLe := holen.trans_le hl
    resultKnown := fun i hi => by simpa [Memory.specified_ofBytes] using holen ▸ hi
    errLe := Nat.zero_le _ }

theorem Inv.succeedCode (h : Inv s) (v : BitVec 31) : Inv (s.succeedCode v) :=
  { h with errLe := Nat.zero_le _ }

theorem Inv.succeedCompare (h : Inv s) (equal : Bool) (pairs : BitVec 32) (hp : pairs.toNat ≤ s.capacity) :
    Inv (s.succeedCompare equal pairs) :=
  { h with scanLe := hp, errLe := Nat.zero_le _ }

/-- After `CLR` every byte is a known 0, and no zero is listed (44_housekeeping.md R160). -/
theorem Inv.clearAll (h : Inv s) : Inv s.clearAll where
  admitted := h.admitted
  abufWf := rfl
  bbufWf := rfl
  obufWf := rfl
  abufWithin := rfl
  bbufWithin := rfl
  obufWithin := rfl
  olenLe := Nat.zero_le _
  resultKnown := fun _ _ => rfl
  scanLe := Nat.zero_le _
  errLe := Nat.zero_le _

/-! ## Commands, moves and steps -/

/-- A word decodes only to commands a word can carry (30_encoding.md R71, R73). -/
theorem wellFormed_of_decode (w : BitVec 8) (i : Instr) (h : decode w = .command i) : i.wellFormed = true := by
  cases i with
  | dfmt d =>
    obtain rfl : (w.extractLsb' 0 4).toNat = d := by
      simp only [decode] at h
      split_ifs at h <;> cases h
      rfl
    exact decide_eq_true (w.extractLsb' 0 4).isLt
  | _ => rfl

/-- Every command a word can carry keeps the invariant: its result fits the register and the buffer. -/
theorem Inv.of_exec {t : State} (h : Inv s) (i : Instr) (hi : i.wellFormed = true) (ht : exec i s = .next t) :
    Inv t := by
  cases i with
  | b32enc =>
    obtain ⟨-, rfl⟩ | ⟨hl, rfl⟩ := execB32enc_cases s t ht
    · exact h.raise _ _
    · exact h.succeedOutput _ (by simpa using s.textLength_le_outCapacity hl)
  | b32dec =>
    obtain ⟨-, rfl⟩ | ⟨-, -, rfl⟩ | ⟨bytes, hl, hd, rfl⟩ := execB32dec_cases s t ht
    · exact h.raise _ _
    · exact h.raise _ _
    · have hbytes := length_of_base32Decode _ _ hd
      have hstripped := length_stripped_le s.operandA
      have hcap := s.capacity_le_outCapacity
      rw [s.length_operandA] at hstripped
      exact h.succeedOutput _ (by omega)
  | ctrenc =>
    obtain rfl := execCtrenc_cases s t ht
    exact h.succeedOutput _ (by simpa using le_trans (by decide) s.fifteen_le_outCapacity)
  | dtrunc alg =>
    obtain ⟨-, rfl⟩ | ⟨k, -, -, rfl⟩ | ⟨k, -, -, rfl⟩ := execDtrunc_cases alg s t ht
    · exact h.raise _ _
    · exact h.raise _ _
    · exact h.succeedCode _
  | dfmt d =>
    obtain ⟨-, rfl⟩ | ⟨-, rfl⟩ := execDfmt_cases d s t ht
    · exact h.raise _ _
    · have hd : d ≤ 15 := Nat.le_of_lt_succ (of_decide_eq_true hi)
      exact h.succeedOutput _ (by simpa using hd.trans s.fifteen_le_outCapacity)
  | cmp =>
    obtain ⟨-, rfl⟩ | ⟨ha, -, he, rfl⟩ | ⟨-, -, -, rfl⟩ := execCmp_cases s t ht
    · exact h.raise _ _
    · exact h.succeedCompare _ _ ((scanOf_operands s he).symm ▸ ha)
    · exact h.succeedCompare _ _ (Nat.zero_le _)
  | clr =>
    obtain rfl := execClr_cases s t ht
    exact h.clearAll

/-- Every command word keeps the invariant, an illegal one too (30_encoding.md R74). -/
theorem Inv.of_executeWord {t : State} (h : Inv s) (w : BitVec 8) (ht : executeWord w s = .next t) : Inv t := by
  obtain ⟨i, hd, hexec⟩ | ⟨-, rfl⟩ := executeWord_cases w s t ht
  · exact h.of_exec i (wellFormed_of_decode w i hd) hexec
  · exact h.raise _ _

/-- Every move the host has keeps the invariant (20_memory.md R51, R61). -/
theorem Inv.of_moveEffect {t : State} (h : Inv s) (m : HostMove) (ha : moveAllowed m s = true)
    (ht : moveEffect m s = .next t) : Inv t := by
  cases m with
  | cmd w => exact h.of_executeWord w ht
  | seta vs => exact Host.Outcome.next.inj ht ▸ h.loadA vs (of_decide_eq_true ha)
  | setb vs => exact Host.Outcome.next.inj ht ▸ h.loadB vs (of_decide_eq_true ha)
  | wra i v => exact Host.Outcome.next.inj ht ▸ h.writeA i v (of_decide_eq_true ha)
  | wrb i v => exact Host.Outcome.next.inj ht ▸ h.writeB i v (of_decide_eq_true ha)
  | setalen n => exact Host.Outcome.next.inj ht ▸ h.setAlen n
  | setblen n => exact Host.Outcome.next.inj ht ▸ h.setBlen n
  | setctr c => exact Host.Outcome.next.inj ht ▸ h.setCtr c
  | setcode c => exact Host.Outcome.next.inj ht ▸ h.setCode c
  | rd | rda | rdb | rdo | rdout => exact Host.Outcome.next.inj ht ▸ h.answer _

end

/-- Settles O5, by the way a step can end: idle, one move of the host, or reset. -/
theorem stepKeepsInvariant : Obligations.StepKeepsInvariant := by
  intro s t h ht
  obtain ⟨-, rfl⟩ | ⟨x, rest, -, ⟨m, -, hallowed, hm⟩ | ⟨-, rfl⟩⟩ := step_cases s t ht
  · exact h
  · exact (h.takeInput rest).of_moveEffect m hallowed hm
  · exact (h.takeInput rest).resetBlock

end Sys2Proof.Machine
end

section
/-! SUPPORT. Noninterference: what a command writes is a function of what 10_state.md R36 says it reads. Two states that
agree there end by the same completion, with the same result. -/

namespace Sys2Proof.Machine

variable {s t s' t' : State}

theorem capacity_eq_of_params_eq (h : s.params = t.params) : s.capacity = t.capacity :=
  congrArg Params.capacity h

/-- The operand in `ABUF` is a function of `ALEN` and of the bytes below it. -/
theorem operandA_eq_of_reads_eq (hl : s.alen = t.alen) (hr : ∀ a, a < s.alen.toNat → s.readA a = t.readA a) :
    s.operandA = t.operandA := by
  unfold State.operandA
  rw [← hl]
  exact List.map_congr_left fun a ha => hr a (List.mem_range.mp ha)

/-- The operand in `BBUF` is a function of `BLEN` and of the bytes below it. -/
theorem operandB_eq_of_reads_eq (hl : s.blen = t.blen) (hr : ∀ a, a < s.blen.toNat → s.readB a = t.readB a) :
    s.operandB = t.operandB := by
  unfold State.operandB
  rw [← hl]
  exact List.map_congr_left fun a ha => hr a (List.mem_range.mp ha)

/-- The code of a digest is a function of five of its bytes (42_truncate_format.md R132). -/
theorem truncate_eq_of_reads_eq (n : Nat) (hlast : s.readA (n - 1) = t.readA (n - 1))
    (hr : ∀ k, k < 4 → s.readA (truncationOffset (s.readA (n - 1)) + k)
      = t.readA (truncationOffset (s.readA (n - 1)) + k)) :
    s.truncate n = t.truncate n := by
  have hr0 := hr 0 (by decide)
  rw [Nat.add_zero] at hr0
  simp only [State.truncate, ← hlast]
  rw [hr0, hr 1 (by decide), hr 2 (by decide), hr 3 (by decide)]

/-- A command has one outcome in a state. -/
theorem eq_of_exec {i : Instr} {u : State} (ht : exec i t = .next t') (hu : exec i t = .next u) : t' = u :=
  Host.Outcome.next.inj (ht.symm.trans hu)

theorem b32enc_agree (h : AgreeOnReads .b32enc s t) (hs : exec .b32enc s = .next s')
    (ht : exec .b32enc t = .next t') : AgreeOnWrites .b32enc s' t' := by
  obtain ⟨hp, hl, hr⟩ := h
  have hc := capacity_eq_of_params_eq hp
  obtain ⟨hn, rfl⟩ | ⟨hn, rfl⟩ := execB32enc_cases s s' hs <;> rw [hc, hl] at hn
  · obtain rfl := eq_of_exec ht (exec_b32enc_of_tooLong t hn)
    exact ⟨rfl, rfl, rfl⟩
  · obtain rfl := eq_of_exec ht (exec_b32enc_of_fits t hn)
    rw [operandA_eq_of_reads_eq hl hr]
    exact ⟨rfl, rfl, rfl⟩

theorem b32dec_agree (h : AgreeOnReads .b32dec s t) (hs : exec .b32dec s = .next s')
    (ht : exec .b32dec t = .next t') : AgreeOnWrites .b32dec s' t' := by
  obtain ⟨hp, hl, hr⟩ := h
  have hc := capacity_eq_of_params_eq hp
  have ho := operandA_eq_of_reads_eq hl hr
  obtain ⟨hn, rfl⟩ | ⟨hn, hd, rfl⟩ | ⟨bytes, hn, hd, rfl⟩ := execB32dec_cases s s' hs <;> rw [hc, hl] at hn
  · obtain rfl := eq_of_exec ht (exec_b32dec_of_tooLong t hn)
    exact ⟨rfl, rfl, rfl⟩
  · obtain rfl := eq_of_exec ht (exec_b32dec_of_invalid t hn (ho ▸ hd))
    exact ⟨rfl, rfl, rfl⟩
  · obtain rfl := eq_of_exec ht (exec_b32dec_of_valid t bytes hn (ho ▸ hd))
    exact ⟨rfl, rfl, rfl⟩

theorem ctrenc_agree (h : AgreeOnReads .ctrenc s t) (hs : exec .ctrenc s = .next s')
    (ht : exec .ctrenc t = .next t') : AgreeOnWrites .ctrenc s' t' := by
  have hctr : s.ctr = t.ctr := h
  obtain rfl := execCtrenc_cases s s' hs
  obtain rfl := execCtrenc_cases t t' ht
  rw [hctr]
  exact ⟨rfl, rfl, rfl⟩

/-- The code is written on success only, so it is a function of the digest there alone (60_exceptions.md R184). -/
theorem dtrunc_agree (alg : AlgSel) (h : AgreeOnReads (.dtrunc alg) s t) (hs : exec (.dtrunc alg) s = .next s')
    (ht : exec (.dtrunc alg) t = .next t') : AgreeOnWrites (.dtrunc alg) s' t' := by
  obtain ⟨hk, rfl⟩ | ⟨k, hk, hn, rfl⟩ | ⟨k, hk, hn, rfl⟩ := execDtrunc_cases alg s s' hs
  · obtain rfl := eq_of_exec ht (exec_dtrunc_of_unsupported t alg hk)
    exact ⟨rfl, fun he => absurd he (by simp [ErrCode.bits])⟩
  · obtain ⟨hl, -, -⟩ := h k hk
    obtain rfl := eq_of_exec ht (exec_dtrunc_of_wrongLength t alg k hk (hl ▸ hn))
    exact ⟨rfl, fun he => absurd he (by simp [ErrCode.bits])⟩
  · obtain ⟨hl, hlast, hr⟩ := h k hk
    obtain rfl := eq_of_exec ht (exec_dtrunc_of_digest t alg k hk (hl ▸ hn))
    exact ⟨rfl, fun _ => truncate_eq_of_reads_eq _ hlast hr⟩

theorem dfmt_agree (d : Nat) (h : AgreeOnReads (.dfmt d) s t) (hs : exec (.dfmt d) s = .next s')
    (ht : exec (.dfmt d) t = .next t') : AgreeOnWrites (.dfmt d) s' t' := by
  have hcode : s.code = t.code := h
  obtain ⟨rfl, rfl⟩ | ⟨hd, rfl⟩ := execDfmt_cases d s s' hs
  · obtain rfl := eq_of_exec ht (exec_dfmt_zero t)
    exact ⟨rfl, rfl, rfl⟩
  · obtain rfl := eq_of_exec ht (exec_dfmt_of_ne_zero t d hd)
    rw [hcode]
    exact ⟨rfl, rfl, rfl⟩

theorem cmp_agree (h : AgreeOnReads .cmp s t) (hs : exec .cmp s = .next s') (ht : exec .cmp t = .next t') :
    AgreeOnWrites .cmp s' t' := by
  obtain ⟨hp, hla, hlb, hra, hrb⟩ := h
  have hc := capacity_eq_of_params_eq hp
  obtain ⟨hn, rfl⟩ | ⟨ha, hb, he, rfl⟩ | ⟨ha, hb, he, rfl⟩ := execCmp_cases s s' hs
  · rw [hc, hla, hlb] at hn
    obtain rfl := eq_of_exec ht (exec_cmp_of_tooLong t hn)
    exact ⟨rfl, rfl, rfl⟩
  · rw [operandA_eq_of_reads_eq hla hra, operandB_eq_of_reads_eq hlb hrb]
    rw [hc, hla] at ha
    rw [hc, hlb] at hb
    rw [hla, hlb] at he
    obtain rfl := eq_of_exec ht (exec_cmp_of_eq_length t ha hb he)
    exact ⟨rfl, rfl, rfl⟩
  · rw [hc, hla] at ha
    rw [hc, hlb] at hb
    rw [hla, hlb] at he
    obtain rfl := eq_of_exec ht (exec_cmp_of_ne_length t ha hb he)
    exact ⟨rfl, rfl, rfl⟩

/-- `CLR` reads nothing and writes constants (44_housekeeping.md R160). -/
theorem clr_agree (hs : exec .clr s = .next s') (ht : exec .clr t = .next t') : AgreeOnWrites .clr s' t' := by
  obtain rfl := execClr_cases s s' hs
  obtain rfl := execClr_cases t t' ht
  exact ⟨rfl, rfl, rfl, rfl, rfl, rfl, rfl, rfl, rfl, rfl, rfl⟩

/-- Settles O24, command by command. -/
theorem resultsDependOnlyOnTheReadSet : Obligations.ResultsDependOnlyOnTheReadSet := by
  intro i s t s' t' h hs ht
  cases i with
  | b32enc => exact b32enc_agree h hs ht
  | b32dec => exact b32dec_agree h hs ht
  | ctrenc => exact ctrenc_agree h hs ht
  | dtrunc alg => exact dtrunc_agree alg h hs ht
  | dfmt d => exact dfmt_agree d h hs ht
  | cmp => exact cmp_agree h hs ht
  | clr => exact clr_agree hs ht

end Sys2Proof.Machine
end

section
/-! SUPPORT. The slots of 10_state.md R20 at reset and under the host's moves: what a read hands back, what a write
changes, and that a string move loads an operand (20_memory.md R61). -/

namespace Sys2Proof.Machine

/-! ## Reset -/

/-- Settles O1, field by field of `State.resetWith`. -/
theorem resetZeroesRegistersAndForgetsBuffers : Obligations.ResetZeroesRegistersAndForgetsBuffers := by
  rintro p t rfl
  exact ⟨rfl, rfl, rfl, rfl, rfl, rfl, rfl, rfl, rfl, Memory.specified_unspecified, Memory.specified_unspecified,
    Memory.specified_unspecified⟩

/-! ## Reads -/

/-- A register read is zero-extended: it hands back the register's number. -/
theorem State.toNat_register (s : State) :
    (s.register .ctr).toNat = s.ctr.toNat ∧ (s.register .code).toNat = s.code.toNat ∧
      (s.register .alen).toNat = s.alen.toNat ∧ (s.register .blen).toNat = s.blen.toNat ∧
      (s.register .olen).toNat = s.olen.toNat ∧ (s.register .matchFlag).toNat = s.matchFlag.toNat ∧
      (s.register .err).toNat = s.err.toNat ∧ (s.register .scan).toNat = s.scan.toNat := by
  refine ⟨rfl, ?_, ?_, ?_, ?_, Eq.trans ?_ (BitVec.toNat_ofBool s.matchFlag), ?_, ?_⟩
  all_goals exact BitVec.toNat_setWidth_of_le (by decide)

/-- Settles O9: every read is a move the host has, and its effect is the answer alone. -/
theorem hostReadsChangeNothing : Obligations.HostReadsChangeNothing := by
  intro s
  obtain ⟨hctr, hcode, halen, hblen, holen, hmatch, herr, hscan⟩ := s.toNat_register
  exact ⟨fun r => hostMove_allowed (.rd r) s rfl,
    fun i hi => ⟨hostMove_allowed (.rda i) s (decide_eq_true hi), hostMove_allowed (.rdb i) s (decide_eq_true hi)⟩,
    fun i hi => hostMove_allowed (.rdo i) s (decide_eq_true hi),
    hostMove_allowed .rdout s rfl,
    hcode, hcode.trans_lt s.code.isLt, rfl, hctr, halen, hblen, holen, hscan, herr, hmatch⟩

/-! ## Writes of one byte -/

/-- A written byte reads as the value written. -/
theorem State.readA_writeA_same (s : State) (i : Nat) (v : Byte) : (s.writeA i v).readA i = v :=
  Memory.read_write_same ..

theorem State.readB_writeB_same (s : State) (i : Nat) (v : Byte) : (s.writeB i v).readB i = v :=
  Memory.read_write_same ..

/-- A write leaves whether another byte is known. -/
theorem Memory.specified_write_other (m : Memory) (i : Nat) (v : Byte) (a : Nat) (h : a ≠ i) :
    (m.write i v).specified a = m.specified a := by
  simp [Memory.specified_write, h.symm]

theorem State.writeA_other (s : State) (i : Nat) (v : Byte) (a : Nat) (h : a ≠ i) :
    (s.writeA i v).readA a = s.readA a ∧ (s.writeA i v).abuf.specified a = s.abuf.specified a :=
  ⟨s.abuf.read_write_other i v .abuf s.draws a h.symm, s.abuf.specified_write_other i v a h⟩

theorem State.writeB_other (s : State) (i : Nat) (v : Byte) (a : Nat) (h : a ≠ i) :
    (s.writeB i v).readB a = s.readB a ∧ (s.writeB i v).bbuf.specified a = s.bbuf.specified a :=
  ⟨s.bbuf.read_write_other i v .bbuf s.draws a h.symm, s.bbuf.specified_write_other i v a h⟩

/-- Settles O10: the byte rules for `wra` and `wrb`, and the register writes by their definitions. -/
theorem hostWritesTakeEffect : Obligations.HostWritesTakeEffect := by
  intro s
  refine ⟨fun i v hi => ?_, fun i v hi => ?_, fun n => hostMove_allowed (.setalen n) s rfl,
    fun n => hostMove_allowed (.setblen n) s rfl, fun c => hostMove_allowed (.setctr c) s rfl, fun c => ?_⟩
  · exact ⟨s.writeA i v, hostMove_allowed (.wra i v) s (decide_eq_true hi), rfl, s.readA_writeA_same i v,
      s.writeA_other i v⟩
  · exact ⟨s.writeB i v, hostMove_allowed (.wrb i v) s (decide_eq_true hi), rfl, s.readB_writeB_same i v,
      s.writeB_other i v⟩
  · exact ⟨s.setCode c, hostMove_allowed (.setcode c) s rfl, rfl, BitVec.toNat_setWidth ..⟩

/-! ## String moves -/

/-- A buffer reads back the string written from its index 0. -/
theorem Memory.map_read_writeFrom_zero (m : Memory) (vs : List Byte) (sp : Space) (draw : Nat) :
    (List.range vs.length).map ((m.writeFrom 0 vs).read sp draw) = vs := by
  refine List.ext_getElem (by simp) fun i hi hv => ?_
  simp [Memory.read_writeFrom, hv]

/-- A string written from index 0 leaves every byte at and beyond its length. -/
theorem Memory.read_writeFrom_zero_beyond (m : Memory) (vs : List Byte) (sp : Space) (draw a : Nat)
    (h : vs.length ≤ a) : (m.writeFrom 0 vs).read sp draw a = m.read sp draw a := by
  rw [Memory.read_writeFrom, dif_neg (by omega)]

section

variable (s : State) (vs : List Byte)

/-- The length register holds the string's length, when the string is short enough for it. -/
theorem State.toNat_alen_loadA (h : vs.length < 2 ^ 32) : (s.loadA vs).alen.toNat = vs.length :=
  (BitVec.toNat_ofNat ..).trans (Nat.mod_eq_of_lt h)

theorem State.toNat_blen_loadB (h : vs.length < 2 ^ 32) : (s.loadB vs).blen.toNat = vs.length :=
  (BitVec.toNat_ofNat ..).trans (Nat.mod_eq_of_lt h)

/-- After `seta` the operand in `ABUF` is the string (10_state.md R23). -/
theorem State.operandA_loadA (h : vs.length < 2 ^ 32) : (s.loadA vs).operandA = vs := by
  rw [State.operandA, s.toNat_alen_loadA vs h]
  exact s.abuf.map_read_writeFrom_zero vs .abuf s.draws

/-- After `setb` the operand in `BBUF` is the string (10_state.md R24). -/
theorem State.operandB_loadB (h : vs.length < 2 ^ 32) : (s.loadB vs).operandB = vs := by
  rw [State.operandB, s.toNat_blen_loadB vs h]
  exact s.bbuf.map_read_writeFrom_zero vs .bbuf s.draws

end

/-- Settles O12: a string within an admitted capacity fits the length register, so the load rules apply. -/
theorem stringMoveLoadsTheOperand : Obligations.StringMoveLoadsTheOperand := by
  intro s vs ⟨_, hhigh⟩ hl
  have hlen : vs.length < 2 ^ 32 := (hl.trans hhigh).trans_lt (by decide)
  constructor
  · exact ⟨s.loadA vs, hostMove_allowed (.seta vs) s (decide_eq_true hl), s.operandA_loadA vs hlen,
      s.toNat_alen_loadA vs hlen, s.abuf.read_writeFrom_zero_beyond vs .abuf s.draws, rfl, rfl, rfl, fun _ => rfl⟩
  · exact ⟨s.loadB vs, hostMove_allowed (.setb vs) s (decide_eq_true hl), s.operandB_loadB vs hlen,
      s.toNat_blen_loadB vs hlen, s.bbuf.read_writeFrom_zero_beyond vs .bbuf s.draws, rfl, rfl, rfl, fun _ => rfl⟩

end Sys2Proof.Machine
end

section
/-! SUPPORT. Frames and write rights (10_state.md R32, R36): what a completion leaves, what each group of commands
leaves, and which words those commands are. -/

namespace Sys2Proof.Machine

variable {s t : State}

/-! ## Completions -/

/-- An error completion touches no operand and nothing outside the block (60_exceptions.md R184). -/
theorem raise_frame (s : State) (slot : ResultSlot) (e : ErrCode) :
    SameOutside s (s.raise slot e) ∧ SameOperands s (s.raise slot e) := by
  cases slot <;> exact ⟨⟨rfl, rfl, rfl, rfl⟩, rfl, rfl, rfl, rfl, rfl, fun _ => rfl, fun _ => rfl⟩

/-- A string result touches no operand and nothing outside the block (10_state.md R36). -/
theorem succeedOutput_frame (s : State) (vs : List Byte) :
    SameOutside s (s.succeedOutput vs) ∧ SameOperands s (s.succeedOutput vs) :=
  ⟨⟨rfl, rfl, rfl, rfl⟩, rfl, rfl, rfl, rfl, rfl, fun _ => rfl, fun _ => rfl⟩

/-- A withheld string result leaves no byte of `OBUF` known. -/
theorem raise_output_beyond (s : State) (e : ErrCode) : UnspecifiedBeyondResult (s.raise .output e) :=
  fun a _ => Memory.specified_unspecified a

/-- Beyond a string result no byte of `OBUF` is known (10_state.md R32). -/
theorem succeedOutput_beyond (s : State) (vs : List Byte) (h : vs.length < 2 ^ 32) :
    UnspecifiedBeyondResult (s.succeedOutput vs) := by
  intro a ha
  rw [s.olen_succeedOutput_toNat vs h] at ha
  simpa [Memory.specified_ofBytes] using ha

/-! ## The commands that write `OBUF` -/

/-- The writers of `OLEN` and `OBUF` (10_state.md R36). -/
def WritesOutput (i : Instr) : Prop :=
  i = .b32enc ∨ i = .b32dec ∨ i = .ctrenc ∨ ∃ d, i = .dfmt d

/-- A writer of `OBUF` withholds its result or answers a string, which fits `OBUF` if a word can carry the command. -/
theorem exec_cases_of_writesOutput {i : Instr} (hi : WritesOutput i) (h : exec i s = .next t) :
    (∃ e, t = s.raise .output e) ∨
      ∃ vs, (i.wellFormed = true → vs.length ≤ s.outCapacity) ∧ t = s.succeedOutput vs := by
  obtain rfl | rfl | rfl | ⟨d, rfl⟩ := hi
  · obtain ⟨-, ht⟩ | ⟨hl, ht⟩ := execB32enc_cases s t h
    · exact .inl ⟨_, ht⟩
    · exact .inr ⟨_, fun _ => by simpa using s.textLength_le_outCapacity hl, ht⟩
  · obtain ⟨-, ht⟩ | ⟨-, -, ht⟩ | ⟨bytes, hl, hd, ht⟩ := execB32dec_cases s t h
    · exact .inl ⟨_, ht⟩
    · exact .inl ⟨_, ht⟩
    · refine .inr ⟨bytes, fun _ => ?_, ht⟩
      have hbytes := length_of_base32Decode _ _ hd
      have hstripped := length_stripped_le s.operandA
      have hcap := s.capacity_le_outCapacity
      rw [s.length_operandA] at hstripped
      omega
  · have hfits : 8 ≤ s.outCapacity := le_trans (by decide) s.fifteen_le_outCapacity
    exact .inr ⟨_, fun _ => by simpa using hfits, execCtrenc_cases s t h⟩
  · obtain ⟨-, ht⟩ | ⟨-, ht⟩ := execDfmt_cases d s t h
    · exact .inl ⟨_, ht⟩
    · refine .inr ⟨_, fun hd => ?_, ht⟩
      have hdigits : d ≤ 15 := Nat.le_of_lt_succ (of_decide_eq_true hd)
      simpa using hdigits.trans s.fifteen_le_outCapacity

/-- A writer of `OBUF` leaves everything but `OLEN`, `OBUF` and `ERR`. -/
theorem exec_frame_of_writesOutput {i : Instr} (hi : WritesOutput i) (h : exec i s = .next t) :
    SameOutside s t ∧ SameOperands s t ∧ t.code = s.code ∧ t.matchFlag = s.matchFlag ∧ t.scan = s.scan := by
  obtain ⟨e, rfl⟩ | ⟨vs, -, rfl⟩ := exec_cases_of_writesOutput hi h
  · obtain ⟨houtside, hoperands⟩ := raise_frame s .output e
    exact ⟨houtside, hoperands, rfl, rfl, rfl⟩
  · obtain ⟨houtside, hoperands⟩ := succeedOutput_frame s vs
    exact ⟨houtside, hoperands, rfl, rfl, rfl⟩

/-- A writer of `OBUF` leaves no byte known at and beyond `OLEN`: its result is not longer than `OLEN` can say. -/
theorem exec_beyond_of_writesOutput {i : Instr} (hp : s.params.Admitted) (hw : i.wellFormed = true)
    (hi : WritesOutput i) (h : exec i s = .next t) : UnspecifiedBeyondResult t := by
  obtain ⟨e, rfl⟩ | ⟨vs, hl, rfl⟩ := exec_cases_of_writesOutput hi h
  · exact raise_output_beyond s e
  · exact succeedOutput_beyond s vs ((hl hw).trans_lt (s.outCapacity_lt hp))

/-- Settles O20: the frame of the writers of `OBUF`, and what they leave beyond the result. -/
theorem outputCommandsFrame : Obligations.OutputCommandsFrame := by
  intro i s t hp hw hi h
  obtain ⟨houtside, hoperands, hcode, hmatch, hscan⟩ := exec_frame_of_writesOutput hi h
  exact ⟨houtside, hoperands, hcode, hmatch, hscan, exec_beyond_of_writesOutput hp hw hi h⟩

/-! ## `DTRUNC` and `CMP` -/

/-- A withheld code leaves the output and the flags too. -/
theorem raise_code_frame (s : State) (e : ErrCode) :
    SameOutside s (s.raise .code e) ∧ SameOperands s (s.raise .code e) ∧ SameOutput s (s.raise .code e) ∧
      (s.raise .code e).matchFlag = s.matchFlag ∧ (s.raise .code e).scan = s.scan := by
  obtain ⟨houtside, hoperands⟩ := raise_frame s .code e
  exact ⟨houtside, hoperands, ⟨rfl, rfl, fun _ => rfl⟩, rfl, rfl⟩

/-- A truncation's success touches no operand, no output, no flag and nothing outside the block. -/
theorem succeedCode_frame (s : State) (v : BitVec 31) :
    SameOutside s (s.succeedCode v) ∧ SameOperands s (s.succeedCode v) ∧ SameOutput s (s.succeedCode v) ∧
      (s.succeedCode v).matchFlag = s.matchFlag ∧ (s.succeedCode v).scan = s.scan :=
  ⟨⟨rfl, rfl, rfl, rfl⟩, ⟨rfl, rfl, rfl, rfl, rfl, fun _ => rfl, fun _ => rfl⟩, ⟨rfl, rfl, fun _ => rfl⟩, rfl, rfl⟩

/-- Settles O21, by the way `DTRUNC` can end. -/
theorem dtruncFrame : Obligations.DtruncFrame := by
  intro alg s t h
  obtain ⟨-, rfl⟩ | ⟨k, -, -, rfl⟩ | ⟨k, -, -, rfl⟩ := execDtrunc_cases alg s t h
  · exact raise_code_frame s .config
  · exact raise_code_frame s .input
  · exact succeedCode_frame s _

/-- `DTRUNC` leaves `CODE` where no supported algorithm is named (60_exceptions.md R184). -/
theorem execDtrunc_code_of_unsupported {alg : AlgSel} (hk : supportedHash alg = none)
    (h : exec (.dtrunc alg) s = .next t) : t.code = s.code := by
  obtain rfl := eq_of_exec h (exec_dtrunc_of_unsupported s alg hk)
  rfl

/-- A comparison's success touches no operand, no output and nothing outside the block. -/
theorem succeedCompare_frame (s : State) (equal : Bool) (pairs : BitVec 32) :
    SameOutside s (s.succeedCompare equal pairs) ∧ SameOperands s (s.succeedCompare equal pairs) ∧
      SameOutput s (s.succeedCompare equal pairs) ∧ (s.succeedCompare equal pairs).code = s.code :=
  ⟨⟨rfl, rfl, rfl, rfl⟩, ⟨rfl, rfl, rfl, rfl, rfl, fun _ => rfl, fun _ => rfl⟩, ⟨rfl, rfl, fun _ => rfl⟩, rfl⟩

/-- Settles O22, by the way `CMP` can end. -/
theorem cmpFrame : Obligations.CmpFrame := by
  intro s t h
  obtain ⟨-, rfl⟩ | ⟨-, -, -, rfl⟩ | ⟨-, -, -, rfl⟩ := execCmp_cases s t h
  · obtain ⟨houtside, hoperands⟩ := raise_frame s .compare .input
    exact ⟨houtside, hoperands, ⟨rfl, rfl, fun _ => rfl⟩, rfl⟩
  · exact succeedCompare_frame s _ _
  · exact succeedCompare_frame s _ _

/-! ## Which word a command is -/

/-- A word is its `op` field followed by its `arg` field (30_encoding.md R71). -/
theorem append_eq_word {w : BitVec 8} {op arg : BitVec 4} (hop : w.extractLsb' 4 4 = op)
    (harg : w.extractLsb' 0 4 = arg) : op ++ arg = w := by
  rw [← hop, ← harg]
  exact BitVec.extractLsb'_append_extractLsb'

theorem algBits_ofBits (b : BitVec 2) : (AlgSel.ofBits b).bits = b := by
  revert b
  decide

/-- An argument whose bits 3:2 are 0 is the one `DTRUNC` takes from the selector in its bits 1:0 (30_encoding.md
R73). -/
theorem append_algBits_eq_arg {arg : BitVec 4} (h : arg.extractLsb' 2 2 = 0#2) :
    0#2 ++ (AlgSel.ofBits (arg.extractLsb' 0 2)).bits = arg := by
  rw [algBits_ofBits, ← h]
  exact BitVec.extractLsb'_append_extractLsb'

/-- A word that decodes is the word of its command (30_encoding.md R71, R72). -/
theorem encode_of_decode (w : BitVec 8) (i : Instr) (h : decode w = .command i) : encode i = w := by
  simp only [decode] at h
  split_ifs at h with hb32enc hb32dec hctrenc hdtrunc hdfmt hcmp hclr <;> cases h
  · exact append_eq_word hb32enc.1 hb32enc.2
  · exact append_eq_word hb32dec.1 hb32dec.2
  · exact append_eq_word hctrenc.1 hctrenc.2
  · exact append_eq_word hdtrunc.1 (append_algBits_eq_arg hdtrunc.2).symm
  · exact append_eq_word hdfmt (BitVec.ofNat_toNat .. |>.trans (BitVec.setWidth_eq ..)).symm
  · exact append_eq_word hcmp.1 hcmp.2
  · exact append_eq_word hclr.1 hclr.2

/-- The words of `DTRUNC` with a supported algorithm (30_encoding.md R73). -/
theorem encode_dtrunc_mem {alg : AlgSel} (h : supportedHash alg ≠ none) :
    encode (.dtrunc alg) ∈ [0x40, 0x41, 0x42] := by
  revert h
  cases alg <;> decide

/-- The words of the writers of `OBUF` (30_encoding.md R72). -/
theorem encode_of_writesOutput {i : Instr} (hi : WritesOutput i) :
    encode i ∈ [0x10, 0x20, 0x30] ∨ encode i &&& 0xF0 = 0x50 := by
  obtain rfl | rfl | rfl | ⟨d, rfl⟩ := hi
  · exact .inl (by decide)
  · exact .inl (by decide)
  · exact .inl (by decide)
  · exact .inr (eq_of_beq (Laws.OpcodeBits.dfmt d).1)

/-! ## Who writes what -/

/-- The commands by what they write: everything, `OBUF`, `CODE`, or the comparison's flags (10_state.md R36). -/
theorem writer_cases (i : Instr) :
    i = .clr ∨ WritesOutput i ∨ (∃ alg, i = .dtrunc alg) ∨ i = .cmp := by
  cases i <;> simp [WritesOutput]

/-- Settles O23: each group of commands has its frame, and its words are those R20 lists. -/
theorem onlyTheListedCommandsWrite : Obligations.OnlyTheListedCommandsWrite := by
  intro w s t h hclr
  obtain ⟨i, hd, hexec⟩ | ⟨-, rfl⟩ := executeWord_cases w s t h
  · obtain rfl := encode_of_decode w i hd
    obtain rfl | hi | ⟨alg, rfl⟩ | rfl := writer_cases i
    · exact absurd rfl hclr
    · obtain ⟨houtside, hoperands, hcode, hmatch, hscan⟩ := exec_frame_of_writesOutput hi hexec
      exact ⟨houtside, hoperands, fun _ => hcode,
        fun hlisted hdfmt => absurd (encode_of_writesOutput hi) (not_or.mpr ⟨hlisted, hdfmt⟩),
        fun _ => ⟨hmatch, hscan⟩⟩
    · obtain ⟨houtside, hoperands, houtput, hflags⟩ := dtruncFrame alg s t hexec
      exact ⟨houtside, hoperands,
        fun hlisted => execDtrunc_code_of_unsupported (not_not.mp fun hk => hlisted (encode_dtrunc_mem hk)) hexec,
        fun _ _ => houtput, fun _ => hflags⟩
    · obtain ⟨houtside, hoperands, houtput, hcode⟩ := cmpFrame s t hexec
      exact ⟨houtside, hoperands, fun _ => hcode, fun _ _ => houtput, fun hcmp => absurd rfl hcmp⟩
  · obtain ⟨houtside, hoperands⟩ := raise_frame s .nothing .illegal
    exact ⟨houtside, hoperands, fun _ => rfl, fun _ _ => ⟨rfl, rfl, fun _ => rfl⟩, fun _ => ⟨rfl, rfl⟩⟩

/-! ## The completion code -/

/-- No command reads `ERR` (10_state.md R28, R36). -/
theorem exec_ignores_err (i : Instr) (s : State) (e : BitVec 3) : exec i { s with err := e } = exec i s := by
  cases i <;> rfl

/-- No word reads `ERR`. -/
theorem executeWord_ignores_err (w : BitVec 8) (s : State) (e : BitVec 3) :
    executeWord w { s with err := e } = executeWord w s := by
  unfold executeWord
  split
  · exact exec_ignores_err _ s e
  · rfl

/-- A command leaves in `ERR` one of the codes of 60_exceptions.md R181. -/
theorem exec_err_is_code (i : Instr) (h : exec i s = .next t) : ∃ e : ErrCode, t.err = e.bits := by
  obtain rfl | hi | ⟨alg, rfl⟩ | rfl := writer_cases i
  · obtain rfl := execClr_cases s t h
    exact ⟨.ok, rfl⟩
  · obtain ⟨e, rfl⟩ | ⟨vs, -, rfl⟩ := exec_cases_of_writesOutput hi h
    · exact ⟨e, rfl⟩
    · exact ⟨.ok, rfl⟩
  · obtain ⟨-, rfl⟩ | ⟨k, -, -, rfl⟩ | ⟨k, -, -, rfl⟩ := execDtrunc_cases alg s t h
    · exact ⟨.config, rfl⟩
    · exact ⟨.input, rfl⟩
    · exact ⟨.ok, rfl⟩
  · obtain ⟨-, rfl⟩ | ⟨-, -, -, rfl⟩ | ⟨-, -, -, rfl⟩ := execCmp_cases s t h
    · exact ⟨.input, rfl⟩
    · exact ⟨.ok, rfl⟩
    · exact ⟨.ok, rfl⟩

/-- A word leaves in `ERR` one of the codes, an illegal one its own (30_encoding.md R74). -/
theorem executeWord_err_is_code (w : BitVec 8) (h : executeWord w s = .next t) : ∃ e : ErrCode, t.err = e.bits := by
  obtain ⟨i, -, hexec⟩ | ⟨-, rfl⟩ := executeWord_cases w s t h
  · exact exec_err_is_code i hexec
  · exact ⟨.illegal, rfl⟩

/-- Settles O19: no word reads `ERR`, and the code a word leaves is at most 4. -/
theorem errIsNeverSticky : Obligations.ErrIsNeverSticky := by
  refine fun w s e => ⟨executeWord_ignores_err w s e, fun t h => ?_⟩
  obtain ⟨code, hcode⟩ := executeWord_err_is_code w h
  exact hcode ▸ code.bits_le_four

end Sys2Proof.Machine
end

section
/-! SUPPORT. The hidden accumulator of the Base32 codec (10_state.md R33): it never holds more bits than `nb` counts. -/

namespace Sys2Proof.Machine

/-- Bits shifted in behind the bits held make a number of as many bits as both have. -/
theorem shiftLeft_or_lt {acc nb v width n : Nat} (hacc : acc < 2 ^ nb) (hv : v < 2 ^ width) (hn : nb + width ≤ n) :
    (acc <<< width) ||| v < 2 ^ n := by
  have hhigh : acc <<< width < 2 ^ n := (Nat.shiftLeft_lt hacc).trans_le (Nat.pow_le_pow_right (by decide) hn)
  exact Nat.or_lt_two_pow hhigh (hv.trans_le (Nat.pow_le_pow_right (by decide) (by omega)))

/-- Masking to `n` bits leaves a number of `n` bits. -/
theorem and_mask_lt (x n : Nat) : x &&& (2 ^ n - 1) < 2 ^ n := by
  rw [Nat.and_two_pow_sub_one_eq_mod]
  exact Nat.mod_lt x (Nat.two_pow_pos n)

/-! ## The encoder -/

/-- An emitted symbol leaves only the bits still counted (40_base32.md R96). -/
theorem emitSymbol_acc_lt (q : BitQueue) : (emitSymbol q).acc < 2 ^ (emitSymbol q).nb :=
  and_mask_lt _ _

/-- A byte makes at least one symbol, and the last leaves only the bits still counted. -/
theorem encodeByte_acc_lt (q : BitQueue) (b : Byte) (h : q.nb < 5) :
    (encodeByte q b).acc < 2 ^ (encodeByte q b).nb := by
  by_cases h2 : q.nb < 2
  · rw [encodeByte_once q b h2]
    exact emitSymbol_acc_lt _
  · rw [encodeByte_twice q b (by omega) (by omega)]
    exact emitSymbol_acc_lt _

theorem encodeBytes_acc_lt (bs : List Byte) : (encodeBytes bs).acc < 2 ^ (encodeBytes bs).nb := by
  induction bs using List.reverseRecOn with
  | nil => decide
  | append_singleton bs b _ =>
    rw [encodeBytes_append]
    exact encodeByte_acc_lt _ b (encodeBytes_bits bs).1

/-! ## The decoder -/

/-- A symbol value has 5 bits (40_base32.md R92). -/
theorem symbolValue_lt {c : Byte} {v : Nat} (h : symbolValue c = some v) : v < 32 := by
  unfold symbolValue at h
  split_ifs at h <;> cases h <;> omega

/-- A symbol leaves in the accumulator only the bits still counted (40_base32.md R103). -/
theorem takeSymbol_acc_lt (q : BitQueue) (v : Nat) (h : q.acc < 2 ^ q.nb) (hv : v < 32) :
    (takeSymbol q v).acc < 2 ^ (takeSymbol q v).nb := by
  simp only [takeSymbol]
  split
  · exact and_mask_lt _ _
  · exact shiftLeft_or_lt (width := 5) h hv le_rfl

theorem decodeText_acc_lt (text : List Byte) (q q' : BitQueue) (h : q.acc < 2 ^ q.nb)
    (hd : decodeText q text = some q') : q'.acc < 2 ^ q'.nb := by
  induction text generalizing q with
  | nil => exact Option.some.inj hd ▸ h
  | cons c cs ih =>
    cases hw : isWhitespace c with
    | true => exact ih q h (decodeText_whitespace q c cs hw ▸ hd)
    | false =>
      cases hv : symbolValue (upperCase c) with
      | none => simp [decodeText_foreign q c cs hw hv] at hd
      | some v =>
        exact ih (takeSymbol q v) (takeSymbol_acc_lt q v h (symbolValue_lt hv)) (decodeText_symbol q c cs v hw hv ▸ hd)

/-- Settles O30: the loops count every bit, and the accumulator holds no more than are counted. -/
theorem accumulatorStaysInTwelveBits : Obligations.AccumulatorStaysInTwelveBits := by
  constructor
  · intro bs b
    obtain ⟨hnb, hbits⟩ := encodeBytes_bits bs
    have hacc := encodeBytes_acc_lt bs
    exact ⟨by omega, hacc, by omega, shiftLeft_or_lt hacc b.isLt (by omega)⟩
  · intro text q v hd hv
    obtain ⟨hnb, hbits⟩ := decodeText_bits text emptyQueue q (by decide) hd
    simp only [emptyQueue, List.length_nil] at hbits
    have hacc := decodeText_acc_lt text emptyQueue q (by decide) hd
    exact ⟨by omega, hacc, by omega, shiftLeft_or_lt (width := 5) hacc hv (by omega)⟩

end Sys2Proof.Machine
end

section
/-! SUPPORT. Which inputs have a step, what lies outside the block in every step, and that a string move is its separate
moves (20_memory.md R51, R55, R59, R61). -/

namespace Sys2Proof.Machine

variable {s t : State}

/-! ## What the host has -/

/-- A move ends in a next state exactly when the host has it and that state is its effect. -/
theorem hostMove_eq_next_iff {m : HostMove} :
    hostMove m s = .next t ↔ moveAllowed m s = true ∧ moveEffect m s = .next t := by
  cases ha : moveAllowed m s with
  | true => simp [hostMove_allowed m s ha]
  | false => simp [hostMove_refused m s ha]

theorem hostMove_next_iff {m : HostMove} : (∃ t, hostMove m s = .next t) ↔ moveAllowed m s = true := by
  simp only [hostMove_eq_next_iff, exists_and_left, moveEffect_next, and_true]

/-- Taking an input changes no capacity, so the host has the same moves. -/
@[simp] theorem moveAllowed_takeInput (m : HostMove) (s : State) (rest : List Input) :
    moveAllowed m (s.takeInput rest) = moveAllowed m s := by
  cases m <;> rfl

/-- Settles O8: reset always has a step, a move exactly when the host has it. -/
theorem onlyMissingMovesAreRefused : Obligations.OnlyMissingMovesAreRefused := by
  intro s x rest hs
  rw [step_input s x rest hs]
  cases x with
  | reset => exact ⟨iff_of_true ⟨_, rfl⟩ nofun, nofun⟩
  | host m =>
    constructor
    · simp only [performInput, hostMove_next_iff, moveAllowed_takeInput, Input.host.injEq, forall_eq']
    · rintro _ ⟨⟩ hrefused
      exact hostMove_refused m _ ((moveAllowed_takeInput m s rest).trans hrefused)

/-! ## String moves -/

/-- A move the host has is made first, the rest in the state it leaves. -/
theorem runMoves_cons {m : HostMove} (ha : moveAllowed m s = true) (he : moveEffect m s = .next t)
    (rest : List HostMove) : runMoves (m :: rest) s = runMoves rest t := by
  rw [runMoves, hostMove_allowed m s ha, he, andThen_next]

theorem runMoves_append (ms : List HostMove) (h : runMoves ms s = .next t) (rest : List HostMove) :
    runMoves (ms ++ rest) s = runMoves rest t := by
  induction ms generalizing s with
  | nil => exact Host.Outcome.next.inj h ▸ rfl
  | cons m ms ih =>
    obtain ⟨u, hm, hu⟩ := andThen_eq_next _ _ _ h
    obtain ⟨ha, he⟩ := hostMove_eq_next_iff.mp hm
    rw [List.cons_append, runMoves_cons ha he, ih hu]

/-- Byte writes within the capacity, one after another, write the string into `ABUF` and leave the rest. -/
theorem runMoves_byteWritesA (vs : List Byte) (s : State) (i : Nat) (h : i + vs.length ≤ s.capacity) :
    runMoves (byteWritesA i vs) s = .next { s with abuf := s.abuf.writeFrom i vs } := by
  induction vs generalizing s i with
  | nil => rfl
  | cons v vs ih =>
    rw [List.length_cons] at h
    have ha : moveAllowed (.wra i v) s = true := decide_eq_true (by omega)
    rw [byteWritesA, runMoves_cons ha rfl, ih (s.writeA i v) (i + 1) (by rw [s.writeA_capacity]; omega)]
    rfl

/-- The same for `BBUF`. -/
theorem runMoves_byteWritesB (vs : List Byte) (s : State) (i : Nat) (h : i + vs.length ≤ s.capacity) :
    runMoves (byteWritesB i vs) s = .next { s with bbuf := s.bbuf.writeFrom i vs } := by
  induction vs generalizing s i with
  | nil => rfl
  | cons v vs ih =>
    rw [List.length_cons] at h
    have ha : moveAllowed (.wrb i v) s = true := decide_eq_true (by omega)
    rw [byteWritesB, runMoves_cons ha rfl, ih (s.writeB i v) (i + 1) (by rw [s.writeB_capacity]; omega)]
    rfl

/-- Settles O11: the byte writes change the buffer alone and the length write the register alone, so either order
leaves what the string move leaves. -/
theorem stringMoveIsItsSeparateMoves : Obligations.StringMoveIsItsSeparateMoves := by
  intro s vs hl
  have hfits : 0 + vs.length ≤ s.capacity := (Nat.zero_add _).trans_le hl
  rw [hostMove_allowed (.seta vs) s (decide_eq_true hl), hostMove_allowed (.setb vs) s (decide_eq_true hl)]
  refine ⟨?_, ?_, ?_, ?_⟩
  · rw [runMoves_append _ (runMoves_byteWritesA vs s 0 hfits)]
    rfl
  · rw [runMoves_cons rfl rfl, runMoves_byteWritesA vs (s.setAlen (BitVec.ofNat 32 vs.length)) 0 hfits]
    rfl
  · rw [runMoves_append _ (runMoves_byteWritesB vs s 0 hfits)]
    rfl
  · rw [runMoves_cons rfl rfl, runMoves_byteWritesB vs (s.setBlen (BitVec.ofNat 32 vs.length)) 0 hfits]
    rfl

/-! ## What lies outside the block -/

/-- No command touches what lies outside the block (10_state.md R36). -/
theorem exec_outside {i : Instr} (h : exec i s = .next t) : SameOutside s t := by
  obtain rfl | hi | ⟨alg, rfl⟩ | rfl := writer_cases i
  · obtain rfl := execClr_cases s t h
    exact ⟨rfl, rfl, rfl, rfl⟩
  · exact (exec_frame_of_writesOutput hi h).1
  · exact (dtruncFrame alg s t h).1
  · exact (cmpFrame s t h).1

/-- No word touches what lies outside the block, an illegal one neither (30_encoding.md R74). -/
theorem executeWord_outside {w : BitVec 8} (h : executeWord w s = .next t) : SameOutside s t := by
  obtain ⟨i, -, hexec⟩ | ⟨-, rfl⟩ := executeWord_cases w s t h
  · exact exec_outside hexec
  · exact (raise_frame s .nothing .illegal).1

/-- The effect of a move leaves the parameter, the inputs still to come and the number of the draw; a read gives a new
reply. -/
theorem moveEffect_outside {m : HostMove} (h : moveEffect m s = .next t) :
    t.inputs = s.inputs ∧ t.params = s.params ∧ t.draws = s.draws := by
  cases m with
  | cmd w =>
    obtain ⟨hparams, hinputs, hdraws, -⟩ := executeWord_outside h
    exact ⟨hinputs, hparams, hdraws⟩
  | _ =>
    obtain rfl := Host.Outcome.next.inj h
    exact ⟨rfl, rfl, rfl⟩

/-- So does every input, reset too (70_reset_and_hazards.md R201). -/
theorem performInput_outside {x : Input} (h : performInput x s = .next t) :
    t.inputs = s.inputs ∧ t.params = s.params ∧ t.draws = s.draws := by
  cases x with
  | reset =>
    obtain rfl := Host.Outcome.next.inj h
    exact ⟨rfl, rfl, rfl⟩
  | host m =>
    obtain ⟨-, he⟩ := hostMove_eq_next_iff.mp h
    exact moveEffect_outside he

/-- Settles O7: `step_idle` and `step_input`, and that an input leaves what lies outside the block. -/
theorem stepTakesTheOldestInput : Obligations.StepTakesTheOldestInput := by
  refine ⟨step_idle, fun s x rest hs => ?_⟩
  rw [step_input s x rest hs]
  refine ⟨rfl, ?_, ?_, fun t ht => performInput_outside ht⟩
  · rintro m rfl
    rfl
  · rintro rfl
    rfl

end Sys2Proof.Machine
end

section
/-! SUPPORT. The decoder, the encoder and the opcode map agree (30_encoding.md R71 to R76): a word selects a row exactly
when it is the word of a command of that row, and it decodes to that command. So a write to `CMD` runs that command, or
the illegal-command completion (R74, R79). -/

namespace Sys2Proof.Machine

variable {w : BitVec 8} {i : Instr} {r : OpcodeRow}

/-! ## The word of a command decodes to it -/

/-- The word of `DFMT` carries its argument whole (30_encoding.md R73). -/
theorem decode_dfmt_word (arg : BitVec 4) : decode (0x5#4 ++ arg) = .command (.dfmt arg.toNat) := by
  revert arg
  decide

/-- A command a word can carry comes back from its word. -/
theorem decode_encode (i : Instr) (h : i.wellFormed = true) : decode (encode i) = .command i := by
  cases i with
  | dfmt d =>
    have hd : d < 2 ^ 4 := of_decide_eq_true h
    exact (decode_dfmt_word (BitVec.ofNat 4 d)).trans (by rw [BitVec.toNat_ofNat, Nat.mod_eq_of_lt hd])
  | dtrunc alg => cases alg <;> rfl
  | b32enc | b32dec | ctrenc | cmp | clr => rfl

/-- Settles O15: `decode_encode` one way, `wellFormed_of_decode` and `encode_of_decode` the other. -/
theorem decodeInvertsEncode : Obligations.DecodeInvertsEncode :=
  ⟨decode_encode, fun w i h => ⟨wellFormed_of_decode w i h, encode_of_decode w i h⟩⟩

/-- Settles O13: each word is the encoding of its command, so `decode_encode` reads it back. -/
theorem specWordsDecode : Obligations.SpecWordsDecode :=
  ⟨decode_encode .b32enc rfl, decode_encode .b32dec rfl, decode_encode .ctrenc rfl, decode_encode (.dtrunc .sha1) rfl,
    decode_encode (.dtrunc .sha256) rfl, decode_encode (.dtrunc .sha512) rfl, decode_encode (.dtrunc .alg3) rfl,
    decode_encode (.dfmt 6) rfl, decode_encode (.dfmt 8) rfl, decode_encode (.dfmt 0) rfl, decode_encode .cmp rfl,
    decode_encode .clr rfl⟩

/-! ## The fields of a word, as numbers -/

/-- The `op` field is the upper half of the word (30_encoding.md R71). -/
theorem toNat_op (w : BitVec 8) : (w.extractLsb' 4 4).toNat = w.toNat / 16 := by
  rw [BitVec.extractLsb'_toNat, Nat.shiftRight_eq_div_pow]
  omega

/-- The `arg` field is the lower half of the word (30_encoding.md R71). -/
theorem toNat_arg (w : BitVec 8) : (w.extractLsb' 0 4).toNat = w.toNat % 16 := by
  rw [BitVec.extractLsb'_toNat, Nat.shiftRight_zero]

/-- The bits of a `DTRUNC` argument that must be 0 (30_encoding.md R72). -/
theorem toNat_argHigh (w : BitVec 8) : ((w.extractLsb' 0 4).extractLsb' 2 2).toNat = w.toNat % 16 / 4 := by
  rw [BitVec.extractLsb'_toNat, toNat_arg, Nat.shiftRight_eq_div_pow]
  omega

/-- The word of `DTRUNC` holds the selector in its bits 1:0 (30_encoding.md R73). -/
theorem algBits_of_decode {alg : AlgSel} (h : decode w = .command (.dtrunc alg)) :
    w.toNat % 4 = alg.bits.toNat := by
  rw [← encode_of_decode w _ h]
  cases alg <;> rfl

/-- The word of `DFMT` holds the digit count in its bits 3:0 (30_encoding.md R73). -/
theorem digits_of_decode {d : Nat} (h : decode w = .command (.dfmt d)) : w.toNat % 16 = d := by
  have hd : d < 2 ^ 4 := of_decide_eq_true (wellFormed_of_decode w _ h)
  have harg : w.extractLsb' 0 4 = BitVec.ofNat 4 d := by
    rw [← encode_of_decode w _ h]
    exact BitVec.extractLsb'_append_eq_right
  rw [← toNat_arg, harg, BitVec.toNat_ofNat, Nat.mod_eq_of_lt hd]

/-! ## The opcode map -/

/-- The word of every command selects the command's row, which stands in the opcode map (30_encoding.md R72). -/
theorem opcodeBits (i : Instr) : Laws.OpcodeBits.Statement i := by
  cases i with
  | b32enc => exact Laws.OpcodeBits.b32enc
  | b32dec => exact Laws.OpcodeBits.b32dec
  | ctrenc => exact Laws.OpcodeBits.ctrenc
  | dtrunc alg => exact Laws.OpcodeBits.dtrunc alg
  | dfmt d => exact Laws.OpcodeBits.dfmt d
  | cmp => exact Laws.OpcodeBits.cmp
  | clr => exact Laws.OpcodeBits.clr

/-- A word decodes to a command of a row that it selects. -/
theorem selects_of_decode (h : decode w = .command i) : i.row ∈ opcodeMap ∧ i.row.selects w = true := by
  obtain ⟨hselects, hmem⟩ := opcodeBits i
  exact ⟨hmem, encode_of_decode w i h ▸ hselects⟩

/-- Where the mask is all ones, a masked word has the word's own bits. -/
theorem extractLsb'_eq_of_and_eq {mask value : BitVec 8} {start len : Nat} (h : w &&& mask = value)
    (hmask : mask.extractLsb' start len = BitVec.allOnes len) :
    w.extractLsb' start len = value.extractLsb' start len := by
  rw [← h, BitVec.extractLsb'_and, hmask, BitVec.and_allOnes]

/-- A row with the full mask is selected by its value alone. -/
theorem value_eq_of_selects (hmask : r.mask = BitVec.allOnes 8) (h : r.selects w = true) : r.value = w := by
  rw [← eq_of_beq h, hmask, BitVec.and_allOnes]

/-- A word with the match bits of `DTRUNC` is the word of `DTRUNC` with some selector. -/
theorem exists_encode_dtrunc_of_selects (h : (Instr.row (.dtrunc .sha1)).selects w = true) :
    ∃ alg, encode (.dtrunc alg) = w := by
  have hand : w &&& 0xFC = 0x40 := eq_of_beq h
  have hop : w.extractLsb' 4 4 = 0x4 := extractLsb'_eq_of_and_eq hand rfl
  have hhigh : (w.extractLsb' 0 4).extractLsb' 2 2 = 0#2 := by
    rw [BitVec.extractLsb'_extractLsb'_of_le (by decide)]
    exact extractLsb'_eq_of_and_eq hand rfl
  exact ⟨_, append_eq_word hop (append_algBits_eq_arg hhigh).symm⟩

/-- A word with the match bits of `DFMT` is the word of `DFMT` with some digit count of 4 bits. -/
theorem exists_encode_dfmt_of_selects (h : (Instr.row (.dfmt 0)).selects w = true) :
    ∃ d, (Instr.dfmt d).wellFormed = true ∧ encode (.dfmt d) = w := by
  have hand : w &&& 0xF0 = 0x50 := eq_of_beq h
  have hop : w.extractLsb' 4 4 = 0x5 := extractLsb'_eq_of_and_eq hand rfl
  exact ⟨(w.extractLsb' 0 4).toNat, decide_eq_true (w.extractLsb' 0 4).isLt,
    append_eq_word hop (BitVec.ofNat_toNat .. |>.trans (BitVec.setWidth_eq ..)).symm⟩

/-- A word that selects a row of the opcode map is the word of a command of that row (30_encoding.md R72). -/
theorem exists_encode_of_selects (hr : r ∈ opcodeMap) (h : r.selects w = true) :
    ∃ i : Instr, i.wellFormed = true ∧ i.row = r ∧ encode i = w := by
  simp only [opcodeMap, List.mem_cons, List.not_mem_nil, or_false] at hr
  obtain rfl | rfl | rfl | rfl | rfl | rfl | rfl := hr
  · exact ⟨.b32enc, rfl, rfl, value_eq_of_selects rfl h⟩
  · exact ⟨.b32dec, rfl, rfl, value_eq_of_selects rfl h⟩
  · exact ⟨.ctrenc, rfl, rfl, value_eq_of_selects rfl h⟩
  · obtain ⟨alg, hw⟩ := exists_encode_dtrunc_of_selects h
    exact ⟨.dtrunc alg, rfl, rfl, hw⟩
  · obtain ⟨d, hd, hw⟩ := exists_encode_dfmt_of_selects h
    exact ⟨.dfmt d, hd, rfl, hw⟩
  · exact ⟨.cmp, rfl, rfl, value_eq_of_selects rfl h⟩
  · exact ⟨.clr, rfl, rfl, value_eq_of_selects rfl h⟩

/-- So it decodes to a command of that row: the decoder reads every selected word (30_encoding.md R72). -/
theorem exists_decode_of_selects (hr : r ∈ opcodeMap) (h : r.selects w = true) :
    ∃ i : Instr, decode w = .command i ∧ i.row = r := by
  obtain ⟨i, hwf, hrow, rfl⟩ := exists_encode_of_selects hr h
  exact ⟨i, decode_encode i hwf, hrow⟩

/-- At most one row selects a word: both are the row of the command it decodes to. -/
theorem row_eq_of_selects {r' : OpcodeRow} (hr : r ∈ opcodeMap) (hr' : r' ∈ opcodeMap) (h : r.selects w = true)
    (h' : r'.selects w = true) : r = r' := by
  obtain ⟨i, hi, rfl⟩ := exists_decode_of_selects hr h
  obtain ⟨i', hi', rfl⟩ := exists_decode_of_selects hr' h'
  rw [Decoded.command.inj (hi.symm.trans hi')]

/-- The illegal words are those that select no row (30_encoding.md R74). -/
theorem decode_eq_illegal_iff (w : BitVec 8) : decode w = .illegal ↔ ∀ r ∈ opcodeMap, r.selects w = false := by
  constructor
  · refine fun hillegal r hr => Bool.eq_false_iff.mpr fun hselects => ?_
    obtain ⟨i, hi, -⟩ := exists_decode_of_selects hr hselects
    exact nomatch hillegal.symm.trans hi
  · intro hnone
    cases hd : decode w with
    | illegal => rfl
    | command i =>
      obtain ⟨hmem, hselects⟩ := selects_of_decode hd
      exact absurd hselects (Bool.eq_false_iff.mp (hnone _ hmem))

/-- The selected words, counted (30_encoding.md R72). -/
theorem length_filter_selects :
    ((List.range 256).filter fun n => opcodeMap.any (·.selects (BitVec.ofNat 8 n))).length = 25 := by
  decide

/-- Settles O14: `selects_of_decode` and `exists_decode_of_selects` give both directions and the one row. -/
theorem decoderFollowsTheOpcodeMap : Obligations.DecoderFollowsTheOpcodeMap :=
  ⟨rfl, length_filter_selects, fun _ _ => algBits_of_decode, fun _ _ => digits_of_decode,
    fun w => ⟨fun _ => selects_of_decode, decode_eq_illegal_iff w, fun _ hr _ hr' => row_eq_of_selects hr hr'⟩⟩

/-! ## The illegal words -/

/-- The words that no branch of the decoder reads are the words that 30_encoding.md R74 counts out: with the fields read
as numbers, each branch is arithmetic. -/
theorem decode_eq_illegal_iff_illegalWord (w : BitVec 8) : decode w = .illegal ↔ IllegalWord w := by
  have hw := w.isLt
  simp only [decode, IllegalWord, ← BitVec.toNat_inj, toNat_op, toNat_arg, toNat_argHigh, BitVec.reduceToNat,
    List.mem_cons, List.not_mem_nil, or_false]
  split_ifs <;> simp only [false_iff, true_iff] <;> omega

/-- The two ways R74 has of saying which words are illegal. -/
theorem illegalWord_iff (w : BitVec 8) : IllegalWord w ↔ ∀ r ∈ opcodeMap, r.selects w = false :=
  (decode_eq_illegal_iff_illegalWord w).symm.trans (decode_eq_illegal_iff w)

/-- The illegal words are the rest of the 256 beside the 25 that select a row (30_encoding.md R74). -/
theorem length_filter_illegalWord :
    ((List.range 256).filter fun n => decide (IllegalWord (BitVec.ofNat 8 n))).length = 231 := by
  have hrest : ∀ n ∈ List.range 256,
      decide (IllegalWord (BitVec.ofNat 8 n)) = !opcodeMap.any (·.selects (BitVec.ofNat 8 n)) := by
    intro n _
    rw [Bool.eq_iff_iff]
    simp only [decide_eq_true_iff, illegalWord_iff, Bool.not_eq_true', List.any_eq_false, Bool.not_eq_true]
  have hall := List.length_eq_length_filter_add (l := List.range 256)
    fun n => opcodeMap.any (·.selects (BitVec.ofNat 8 n))
  rw [length_filter_selects, List.length_range] at hall
  rw [List.filter_congr hrest]
  omega

/-! ## A word written to `CMD` -/

/-- The host may write every word to `CMD` (30_encoding.md R75, 20_memory.md R61). -/
theorem hostMove_cmd (w : BitVec 8) (s : State) : hostMove (.cmd w) s = executeWord w s :=
  hostMove_allowed (.cmd w) s rfl

/-- A word that decodes to a command has that command's meaning (30_encoding.md R79). -/
theorem executeWord_command (h : decode w = .command i) (s : State) : executeWord w s = exec i s := by
  simp only [executeWord, h]

/-- An illegal word ends by the illegal-command completion (30_encoding.md R74). -/
theorem executeWord_illegal (h : decode w = .illegal) (s : State) :
    executeWord w s = .next (s.raise .nothing .illegal) := by
  simp only [executeWord, h]

/-- Settles O16: the illegal words are those that select no row, and one completes by `State.raise` with no result
slot. -/
theorem illegalWordChangesOnlyErr : Obligations.IllegalWordChangesOnlyErr := by
  refine ⟨fun w => ⟨decode_eq_illegal_iff_illegalWord w, illegalWord_iff w⟩, by decide +kernel, by decide, by decide,
    length_filter_illegalWord, by decide, fun s w hw => ?_⟩
  have hd := (decode_eq_illegal_iff_illegalWord w).mpr hw
  obtain ⟨houtside, hoperands⟩ := raise_frame s .nothing .illegal
  exact ⟨s.raise .nothing .illegal, (hostMove_cmd w s).trans (executeWord_illegal hd s), rfl, rfl, houtside, hoperands,
    rfl, rfl, fun _ => rfl⟩

/-- A write to `CMD` that waits first is the word the step executes, on a new draw. -/
theorem step_cmd {s : State} {rest : List Input} (h : s.inputs = .host (.cmd w) :: rest) :
    step s = executeWord w (s.takeInput rest) :=
  (step_input s _ rest h).trans (hostMove_cmd w _)

/-- A placed word of 8 bits is the word the next step executes; what waited still waits. -/
theorem step_withFetchWord (s : State) {n : Nat} (hn : n < 256) :
    step (s.withFetchWord 8 n) = executeWord (BitVec.ofNat 8 n) (s.takeInput s.inputs) := by
  have hword : tableWord 8 n = n := Nat.mod_eq_of_lt hn
  rw [step_cmd (rest := s.inputs) rfl, hword]
  rfl

/-- Settles O6: `step_cmd` and `step_withFetchWord`, by what the word decodes to. -/
theorem stepRunsTheDecodedCommand : Obligations.StepRunsTheDecodedCommand := by
  refine ⟨fun s w rest hs => ?_, fun s n hn => ?_⟩
  · rw [step_cmd hs]
    exact ⟨fun i hi => executeWord_command hi _, fun hi => executeWord_illegal hi _⟩
  · rw [step_withFetchWord s hn]
    exact ⟨fun i hi => executeWord_command hi _, fun hi => executeWord_illegal hi _⟩

end Sys2Proof.Machine
end

section
/-! SUPPORT. Numbers written in fields of bits, the most significant first (`S` and `T` of 40_base32.md R97, R104): what
the next field does to the number, and that the fields of a number are its digits. -/

namespace Sys2Proof.Machine

/-- Field `j` of the number `S` of `bits` bits: the `width` bits that follow the first `width * j`. -/
def bitField (width bits S j : Nat) : Nat :=
  S / 2 ^ (bits - width * (j + 1)) % 2 ^ width

variable {w n N S j : Nat} {f g : Nat → Nat}

theorem bitField_lt (w N S j : Nat) : bitField w N S j < 2 ^ w :=
  Nat.mod_lt _ (Nat.two_pow_pos w)

theorem mul_two_pow_add_div (S : Nat) {k v : Nat} (hv : v < 2 ^ k) : (S * 2 ^ k + v) / 2 ^ k = S := by
  rw [mul_comm, Nat.mul_add_div (Nat.two_pow_pos k), Nat.div_eq_of_lt hv, add_zero]

/-- Bits put in behind a number leave the fields it already has. -/
theorem bitField_push {k v : Nat} (hv : v < 2 ^ k) (hj : w * (j + 1) ≤ N) :
    bitField w (N + k) (S * 2 ^ k + v) j = bitField w N S j := by
  have hexp : N + k - w * (j + 1) = k + (N - w * (j + 1)) := by omega
  rw [bitField, bitField, hexp, pow_add, ← Nat.div_div_eq_div_mul, mul_two_pow_add_div S hv]

/-- The last bits of a number may be dropped when they belong to no field asked for. -/
theorem bitField_drop {r : Nat} (hj : w * (j + 1) + r ≤ N) :
    bitField w N S j = bitField w (N - r) (S / 2 ^ r) j := by
  have hexp : N - w * (j + 1) = r + (N - r - w * (j + 1)) := by omega
  rw [bitField, bitField, hexp, pow_add, ← Nat.div_div_eq_div_mul]

/-- The fields of a number of `m` whole fields. -/
theorem bitField_whole {m : Nat} (hj : j < m) : bitField w (w * m) S j = S / 2 ^ (w * (m - 1 - j)) % 2 ^ w := by
  rw [bitField, ← Nat.mul_sub, show m - (j + 1) = m - 1 - j by omega]

/-- The next digit goes in behind the others. -/
theorem bigEndian_succ (w : Nat) (f : Nat → Nat) (n : Nat) :
    bigEndian w f (n + 1) = bigEndian w f n * 2 ^ w + f n := by
  have hshift : ∀ i ∈ Finset.range n, f i * 2 ^ (w * (n + 1 - 1 - i)) = f i * 2 ^ (w * (n - 1 - i)) * 2 ^ w := by
    intro i hi
    have hlast : n + 1 - 1 - i = n - 1 - i + 1 := by have := Finset.mem_range.mp hi; omega
    rw [hlast, Nat.mul_succ, pow_add, mul_assoc]
  rw [bigEndian, Finset.sum_range_succ, Finset.sum_congr rfl hshift, ← Finset.sum_mul, ← bigEndian]
  simp

theorem bigEndian_congr (h : ∀ i, i < n → f i = g i) : bigEndian w f n = bigEndian w g n :=
  Finset.sum_congr rfl fun i hi => by rw [h i (Finset.mem_range.mp hi)]

theorem bigEndian_lt (hf : ∀ i, i < n → f i < 2 ^ w) : bigEndian w f n < 2 ^ (w * n) := by
  induction n with
  | zero => simp [bigEndian]
  | succ n ih =>
    have hhigh := ih fun i hi => hf i (by omega)
    have hlow := hf n (by omega)
    calc bigEndian w f (n + 1) = bigEndian w f n * 2 ^ w + f n := bigEndian_succ w f n
      _ < (bigEndian w f n + 1) * 2 ^ w := by rw [add_one_mul]; omega
      _ ≤ 2 ^ (w * n) * 2 ^ w := Nat.mul_le_mul_right _ hhigh
      _ = 2 ^ (w * (n + 1)) := by rw [Nat.mul_succ, pow_add]

/-- The fields of a number made of digits are the digits. -/
theorem bitField_bigEndian (hf : ∀ i, i < n → f i < 2 ^ w) (hj : j < n) :
    bitField w (w * n) (bigEndian w f n) j = f j := by
  induction n with
  | zero => omega
  | succ n ih =>
    have hlow := hf n (by omega)
    rw [bigEndian_succ]
    obtain hlt | rfl := Nat.lt_succ_iff_lt_or_eq.mp hj
    · rw [Nat.mul_succ, bitField_push hlow (Nat.mul_le_mul_left w hlt)]
      exact ih (fun i hi => hf i (by omega)) hlt
    · simp [bitField, Nat.mod_eq_of_lt hlow]

/-- The first fields of a number, taken as digits, make its first bits. -/
theorem bigEndian_bitField (hS : S < 2 ^ N) (hn : w * n ≤ N) :
    bigEndian w (bitField w N S) n = S / 2 ^ (N - w * n) := by
  induction n with
  | zero => simp [bigEndian, Nat.div_eq_of_lt hS]
  | succ n ih =>
    rw [Nat.mul_succ] at hn
    have hexp : N - w * n = N - w * (n + 1) + w := by rw [Nat.mul_succ]; omega
    rw [bigEndian_succ, ih (by omega), hexp, pow_add, ← Nat.div_div_eq_div_mul]
    exact Nat.div_add_mod' _ _

end Sys2Proof.Machine
end

section
/-! SUPPORT. What both loops of the Base32 codec keep (40_base32.md R96, R103): the bits taken in so far are a number,
the output is its first fields, and the accumulator is what is left of it. -/

namespace Sys2Proof.Machine

/-- `N` bits, the number `S`, have gone through a queue that puts out `sym` of every `width` bits. -/
structure Queued (width : Nat) (sym : Nat → Byte) (N S : Nat) (q : BitQueue) : Prop where
  bits : width * q.out.length + q.nb = N
  acc : q.acc = S % 2 ^ q.nb
  out : q.out = (List.range q.out.length).map fun j => sym (bitField width N S j)

variable {w N S : Nat} {sym : Nat → Byte} {q : BitQueue}

theorem queued_emptyQueue : Queued w sym 0 0 emptyQueue :=
  ⟨rfl, rfl, rfl⟩

/-- Bits shifted in behind the others. -/
theorem Queued.push {k v : Nat} (h : Queued w sym N S q) (hv : v < 2 ^ k) :
    Queued w sym (N + k) (S * 2 ^ k + v) { q with acc := (q.acc <<< k) ||| v, nb := q.nb + k } := by
  obtain ⟨hbits, hacc, hout⟩ := h
  refine ⟨by dsimp only; omega, ?_, ?_⟩
  · have hlow : (S * 2 ^ k + v) % 2 ^ k = v := by rw [Nat.mul_add_mod', Nat.mod_eq_of_lt hv]
    calc (q.acc <<< k) ||| v = q.acc * 2 ^ k + v := by
          rw [← Nat.shiftLeft_add_eq_or_of_lt hv, Nat.shiftLeft_eq]
      _ = (S * 2 ^ k + v) % 2 ^ (q.nb + k) := by
          rw [add_comm q.nb, pow_add, Nat.mod_mul, hlow, mul_two_pow_add_div S hv, hacc]
          ring
  · refine hout.trans (List.map_congr_left fun j hj => ?_)
    have hle : w * (j + 1) ≤ w * q.out.length := Nat.mul_le_mul_left w (List.mem_range.mp hj)
    rw [bitField_push hv (by omega)]

/-- The first of the bits held put out as one field. -/
theorem Queued.emit (h : Queued w sym N S q) (hw : w ≤ q.nb) :
    Queued w sym N S
      { acc := q.acc &&& (2 ^ (q.nb - w) - 1)
        nb := q.nb - w
        out := q.out ++ [sym ((q.acc >>> (q.nb - w)) &&& (2 ^ w - 1))] } := by
  obtain ⟨hbits, hacc, hout⟩ := h
  have hlen : ∀ b, (q.out ++ [b]).length = q.out.length + 1 := fun b => by simp
  refine ⟨?_, ?_, ?_⟩
  · dsimp only
    rw [hlen, Nat.mul_succ]
    omega
  · dsimp only
    rw [Nat.and_two_pow_sub_one_eq_mod, hacc, Nat.mod_mod_of_dvd _ (pow_dvd_pow 2 (Nat.sub_le _ _))]
  · have hfield : (q.acc >>> (q.nb - w)) &&& (2 ^ w - 1) = bitField w N S q.out.length := by
      have hexp : N - w * (q.out.length + 1) = q.nb - w := by rw [Nat.mul_succ]; omega
      have hnb : 2 ^ q.nb = 2 ^ (q.nb - w) * 2 ^ w := by rw [← pow_add, Nat.sub_add_cancel hw]
      rw [Nat.and_two_pow_sub_one_eq_mod, Nat.shiftRight_eq_div_pow, hacc, hnb, Nat.mod_mul_right_div_self, Nat.mod_mod,
        bitField, hexp]
    dsimp only
    rw [hlen, hfield, List.range_succ, List.map_append, ← hout]
    rfl

/-! ## The encoder -/

theorem queued_drainSymbols (rounds : Nat) (h : Queued 5 alphabet N S q) :
    Queued 5 alphabet N S (drainSymbols rounds q) := by
  induction rounds generalizing q with
  | zero => exact h
  | succ rounds ih =>
    by_cases h5 : 5 ≤ q.nb
    · rw [drainSymbols_emit _ _ h5]
      exact ih (h.emit h5)
    · rwa [drainSymbols_done _ _ (by omega)]

/-- The encoder's state after `n` bytes: they are the bits taken in. -/
theorem queued_encodeBytes (f : Nat → Byte) (n : Nat) :
    Queued 5 alphabet (8 * n) (bigEndian 8 (fun i => (f i).toNat) n) (encodeBytes ((List.range n).map f)) := by
  induction n with
  | zero => exact queued_emptyQueue
  | succ n ih =>
    rw [List.range_succ, List.map_append, List.map_singleton, encodeBytes_append, bigEndian_succ]
    exact queued_drainSymbols _ (ih.push (f n).isLt)

/-- The final symbol completes the text: the bits are those taken in and zeros up to a whole symbol (40_base32.md R97,
R99). -/
theorem Queued.append_finalSymbol {m p : Nat} (h : Queued 5 alphabet N S q) (hnb : q.nb < 5) (hm : 5 * m = N + p)
    (hp : p < 5) :
    q.out ++ finalSymbol q = (List.range m).map fun j => alphabet (bitField 5 (5 * m) (S * 2 ^ p) j) := by
  have hbits := h.bits
  by_cases h0 : 0 < q.nb
  · obtain rfl : p = 5 - q.nb := by omega
    have hpad := h.push (k := 5 - q.nb) (v := 0) (Nat.two_pow_pos _)
    have hsym := hpad.emit (by dsimp only; omega)
    have hfive : q.nb + (5 - q.nb) - 5 = 0 := by omega
    have hlen : q.out.length + 1 = m := by omega
    rw [hm, finalSymbol, if_pos h0]
    simpa [hfive, hlen] using hsym.out
  · obtain rfl : p = 0 := by omega
    obtain rfl : m = q.out.length := by omega
    rw [finalSymbol, if_neg h0, List.append_nil, hm, pow_zero, mul_one]
    exact h.out

/-- The closed form of a text of `n` bytes whose number is `S` (40_base32.md R97). -/
def closedText (n S : Nat) : List Byte :=
  (List.range (textLength n)).map fun j => alphabet (bitField 5 (5 * textLength n) (S * 2 ^ padBits n) j)

theorem textLength_bits (n : Nat) : 5 * textLength n = 8 * n + padBits n ∧ padBits n < 5 := by
  unfold padBits textLength
  omega

/-- The text of `n` bytes is the closed form (40_base32.md R97). -/
theorem base32Encode_range (f : Nat → Byte) (n : Nat) :
    base32Encode ((List.range n).map f) = closedText n (bigEndian 8 (fun i => (f i).toNat) n) := by
  obtain ⟨hbits, hpad⟩ := textLength_bits n
  exact (queued_encodeBytes f n).append_finalSymbol (encodeBytes_bits _).1 hbits hpad

/-! ## The decoder -/

theorem queued_takeSymbol {v : Nat} (h : Queued 8 (BitVec.ofNat 8) N S q) (hv : v < 32) :
    Queued 8 (BitVec.ofNat 8) (N + 5) (S * 32 + v) (takeSymbol q v) := by
  have hpush := h.push (k := 5) hv
  simp only [takeSymbol]
  split
  · next h8 => exact hpush.emit h8
  · exact hpush

/-- The decoder's state after `n` symbols: they are the bits taken in. -/
theorem queued_foldl_takeSymbol (f : Nat → Nat) (hf : ∀ j, f j < 32) (n : Nat) :
    Queued 8 (BitVec.ofNat 8) (5 * n) (bigEndian 5 f n) (((List.range n).map f).foldl takeSymbol emptyQueue) := by
  induction n with
  | zero => exact queued_emptyQueue
  | succ n ih =>
    rw [List.range_succ, List.map_append, List.map_singleton, List.foldl_append, bigEndian_succ]
    exact queued_takeSymbol ih (hf n)

end Sys2Proof.Machine
end

section
/-! SUPPORT. The characters of the Base32 codec: the alphabet and its inverse, whitespace, and the bytes that are
neither (40_base32.md R92, R94, R95, R107). -/

namespace Sys2Proof.Machine

/-- The 32 characters have the codes of `A` to `Z` and of `2` to `7` (40_base32.md R92, R100). -/
theorem alphabet_code : ∀ v, v < 32 →
    (0x41 ≤ (alphabet v).toNat ∧ (alphabet v).toNat ≤ 0x5A) ∨
      (0x32 ≤ (alphabet v).toNat ∧ (alphabet v).toNat ≤ 0x37) := by
  decide

theorem isWhitespace_alphabet : ∀ v, v < 32 → isWhitespace (alphabet v) = false := by
  decide

theorem alphabet_ne_pad : ∀ v, v < 32 → alphabet v ≠ 0x3D := by
  decide

theorem upperCase_alphabet : ∀ v, v < 32 → upperCase (alphabet v) = alphabet v := by
  decide

theorem symbolValue_alphabet : ∀ v, v < 32 → symbolValue (alphabet v) = some v := by
  decide

/-- The character of a symbol value is the character it is the value of. -/
theorem alphabet_of_symbolValue {c : Byte} {v : Nat} (h : symbolValue c = some v) : alphabet v = c := by
  unfold symbolValue at h
  split_ifs at h with hletter hdigit <;> cases h
  · have hv : c.toNat - 0x41 ≤ 25 := by omega
    have hc : 0x41 + (c.toNat - 0x41) = c.toNat := by omega
    rw [alphabet, if_pos hv, hc, BitVec.ofNat_toNat, BitVec.setWidth_eq]
  · have hv : ¬ c.toNat - 0x32 + 26 ≤ 25 := by omega
    have hc : 0x32 + (c.toNat - 0x32 + 26 - 26) = c.toNat := by omega
    rw [alphabet, if_neg hv, hc, BitVec.ofNat_toNat, BitVec.setWidth_eq]

/-- Settles O26: the inverse both ways. -/
theorem alphabetIsPositional : Obligations.AlphabetIsPositional :=
  ⟨by decide, symbolValue_alphabet, fun _ _ h => ⟨symbolValue_lt h, alphabet_of_symbolValue h⟩⟩

/-- The ranges of 40_base32.md R107 are what whitespace and the valid characters leave. -/
theorem foreignByte_iff : ∀ c : Byte, ForeignByte c ↔ isWhitespace c = false ∧ validChar c = false := by
  decide +kernel

theorem length_filter_validChar : ((List.range 256).filter fun n => validChar (BitVec.ofNat 8 n)).length = 58 := by
  decide +kernel

theorem length_filter_isWhitespace : ((List.range 256).filter fun n => isWhitespace (BitVec.ofNat 8 n)).length = 6 := by
  decide +kernel

theorem length_filter_foreignByte :
    ((List.range 256).filter fun n => decide (ForeignByte (BitVec.ofNat 8 n))).length = 192 := by
  decide +kernel

end Sys2Proof.Machine
end

section
/-! SUPPORT. What `B32DEC` makes of a text (40_base32.md R104 to R107): its symbols one after another, or nothing when a
byte of it is foreign. -/

namespace Sys2Proof.Machine

variable {text : List Byte} {s t : State}

/-! ## The symbols of a text -/

/-- The symbol of a character, 0 where there is none (the terms of `symbolAt`). -/
def symbolOf (c : Byte) : Nat :=
  (symbolValue (upperCase c)).getD 0

theorem symbolOf_lt (c : Byte) : symbolOf c < 32 := by
  unfold symbolOf
  cases hv : symbolValue (upperCase c) with
  | none => decide
  | some v => exact symbolValue_lt hv

theorem symbolAt_eq (text : List Byte) (j : Nat) : symbolAt text j = ((stripped text)[j]?.map symbolOf).getD 0 := by
  unfold symbolAt
  cases (stripped text)[j]? <;> rfl

theorem symbolAt_lt (text : List Byte) (j : Nat) : symbolAt text j < 32 := by
  rw [symbolAt_eq]
  cases (stripped text)[j]? with
  | none => decide
  | some c => exact symbolOf_lt c

/-- The symbols by position are those of the stripped characters. -/
theorem map_symbolAt (text : List Byte) :
    (List.range (stripped text).length).map (symbolAt text) = (stripped text).map symbolOf := by
  refine List.ext_getElem (by simp) fun j _ hj => ?_
  simp [symbolAt_eq, show j < (stripped text).length by simpa using hj]

theorem validText_eq_map_upperCase (text : List Byte) :
    validText text = ((stripped text).map upperCase).all fun c => (symbolValue c).isSome := by
  rw [List.all_map]
  rfl

theorem map_symbolOf_eq_map_upperCase (text : List Byte) :
    (stripped text).map symbolOf = ((stripped text).map upperCase).map fun c => (symbolValue c).getD 0 := by
  rw [List.map_map]
  rfl

/-! ## Decoding -/

/-- The decoder's loop: the symbols go in one after another, if each character left after stripping has one. -/
theorem decodeText_eq (q : BitQueue) (text : List Byte) :
    decodeText q text = if validText text then some (((stripped text).map symbolOf).foldl takeSymbol q) else none := by
  induction text generalizing q with
  | nil => rfl
  | cons c cs ih =>
    cases hw : isWhitespace c with
    | true => rw [decodeText_whitespace q c cs hw, ih, validText, validText, stripped_cons_whitespace c cs hw]
    | false =>
      rw [validText, stripped_cons_symbol c cs hw, List.all_cons, ← validText]
      cases hv : symbolValue (upperCase c) with
      | none => simp [decodeText_foreign q c cs hw hv, validChar, hv]
      | some v => simp [decodeText_symbol q c cs v hw hv, ih, validChar, symbolOf, hv]

theorem base32Decode_of_invalid (h : validText text = false) : base32Decode text = none := by
  simp [base32Decode, decodeText_eq, h]

/-- The closed form of the bytes of `n` symbols whose number is `T` (40_base32.md R104). -/
def closedBytes (n T : Nat) : List Byte :=
  (List.range (5 * n / 8)).map fun i => BitVec.ofNat 8 (bitField 8 (8 * (5 * n / 8)) (T / 2 ^ (5 * n % 8)) i)

@[simp] theorem length_closedBytes (n T : Nat) : (closedBytes n T).length = 5 * n / 8 := by
  simp [closedBytes]

/-- The bytes of a valid text are the closed form: the last bits that make no byte are in none (40_base32.md R104,
R106). -/
theorem base32Decode_of_valid (h : validText text = true) :
    base32Decode text
      = some (closedBytes (stripped text).length (bigEndian 5 (symbolAt text) (stripped text).length)) := by
  have hd : base32Decode text
      = some (((List.range (stripped text).length).map (symbolAt text)).foldl takeSymbol emptyQueue).out := by
    simp [base32Decode, decodeText_eq, h, map_symbolAt]
  have hq := queued_foldl_takeSymbol (symbolAt text) (symbolAt_lt text) (stripped text).length
  rw [hd, hq.out, length_of_base32Decode text _ hd, closedBytes]
  refine congrArg some (List.map_congr_left fun i hi => ?_)
  have hi' := List.mem_range.mp hi
  have hwhole : 5 * (stripped text).length - 5 * (stripped text).length % 8 = 8 * (5 * (stripped text).length / 8) := by
    omega
  rw [bitField_drop (r := 5 * (stripped text).length % 8) (by omega), hwhole]

/-- A decoding is a function of the upper-cased characters left after stripping (40_base32.md R94, R95). -/
theorem base32Decode_congr {text' : List Byte}
    (h : (stripped text).map upperCase = (stripped text').map upperCase) : base32Decode text = base32Decode text' := by
  simp only [base32Decode, decodeText_eq, validText_eq_map_upperCase, map_symbolOf_eq_map_upperCase, h]

/-- A text is valid when it holds no foreign byte (40_base32.md R107). -/
theorem validText_iff (text : List Byte) : validText text = true ↔ ∀ c ∈ text, ¬ ForeignByte c := by
  simp only [validText, stripped, List.all_filter, List.all_eq_true, foreignByte_iff, not_and]
  refine forall₂_congr fun c _ => ?_
  cases isWhitespace c <;> simp

/-! ## The command -/

/-- A decoding is not longer than the length register can say. -/
theorem length_lt_of_base32Decode {bytes : List Byte} (h : base32Decode s.operandA = some bytes) :
    bytes.length < 2 ^ 32 := by
  have hbytes := length_of_base32Decode _ _ h
  have hstripped := length_stripped_le s.operandA
  have halen := s.alen.isLt
  rw [s.length_operandA] at hstripped
  omega

theorem exec_b32dec_of_validText (hl : s.alen.toNat ≤ s.capacity) (hv : validText s.operandA = true) :
    exec .b32dec s = .next (s.succeedOutput (closedBytes (stripped s.operandA).length
      (bigEndian 5 (symbolAt s.operandA) (stripped s.operandA).length))) :=
  exec_b32dec_of_valid s _ hl (base32Decode_of_valid hv)

theorem exec_b32dec_of_foreign (hl : s.alen.toNat ≤ s.capacity) (hv : validText s.operandA = false) :
    exec .b32dec s = .next (s.raise .output .encoding) :=
  exec_b32dec_of_invalid s hl (base32Decode_of_invalid hv)

/-- The operand of `B32DEC` is valid when none of its bytes is foreign. -/
theorem validText_operandA_iff (s : State) :
    validText s.operandA = true ↔ ∀ a, a < s.alen.toNat → ¬ ForeignByte (s.readA a) := by
  simp [validText_iff, State.operandA]

/-- Settles O31: `closedBytes`, byte by byte. -/
theorem b32decMatchesClosedForm : Obligations.B32decMatchesClosedForm := by
  intro s _ hl hv
  have hlen := length_lt_of_base32Decode (base32Decode_of_valid hv)
  refine ⟨_, exec_b32dec_of_validText hl hv, rfl, ?_, fun i hi => ?_⟩
  · rw [s.olen_succeedOutput_toNat _ hlen, length_closedBytes]
  · rw [s.readO_succeedOutput _ i (by simpa using hi)]
    simp only [closedBytes, List.getElem_map, List.getElem_range, BitVec.toNat_ofNat]
    exact (Nat.mod_eq_of_lt (bitField_lt ..)).trans (bitField_whole hi)

/-- The table by residue of 40_base32.md R105. -/
theorem decodedLength_table (n : Nat) :
    n * 5 / 8 = 5 * (n / 8) + [0, 0, 1, 1, 2, 3, 3, 4].getD (n % 8) 0 ∧
      5 * n - 8 * (n * 5 / 8) = [0, 5, 2, 7, 4, 1, 6, 3].getD (n % 8) 0 := by
  have hr : n % 8 < 8 := Nat.mod_lt n (by decide)
  interval_cases h : n % 8 <;> simp <;> omega

/-- Settles O32: the length of `closedBytes`, and the table. -/
theorem b32decLength : Obligations.B32decLength := by
  rintro s n _ hl hv rfl
  have holen := s.olen_succeedOutput_toNat _ (length_lt_of_base32Decode (base32Decode_of_valid hv))
  rw [length_closedBytes, mul_comm] at holen
  refine ⟨_, exec_b32dec_of_validText hl hv, holen, ?_⟩
  rw [holen]
  exact decodedLength_table _

/-- Settles O33: `closedBytes` reads the number above the dropped bits only. -/
theorem trailingBitsAreDropped : Obligations.TrailingBitsAreDropped := by
  intro s t n _ _ hls hlt hvs hvt hns hnt hbits
  refine ⟨_, _, exec_b32dec_of_validText hls hvs, exec_b32dec_of_validText hlt hvt, rfl, rfl, ?_⟩
  rw [s.result_succeedOutput _ (length_lt_of_base32Decode (base32Decode_of_valid hvs)),
    t.result_succeedOutput _ (length_lt_of_base32Decode (base32Decode_of_valid hvt)),
    ← hns, ← hnt, closedBytes, closedBytes, hbits]

/-- Settles O34: `B32DEC` succeeds on a valid operand and ends with `ERR_ENCODING` on any other. -/
theorem foreignByteFailsTheDecoding : Obligations.ForeignByteFailsTheDecoding := by
  refine ⟨foreignByte_iff, length_filter_validChar, length_filter_isWhitespace,
    length_filter_foreignByte, fun s hl => ?_⟩
  have hvalid := validText_operandA_iff s
  have hcodes : ErrCode.bits .encoding ≠ 0 := by decide
  cases hv : validText s.operandA with
  | true =>
    have hnone := hvalid.mp hv
    exact ⟨_, exec_b32dec_of_validText hl hv,
      ⟨fun he => absurd he.symm hcodes, fun ⟨a, ha, hforeign⟩ => absurd hforeign (hnone a ha)⟩,
      ⟨fun _ => hnone, fun _ => rfl⟩, fun he => absurd he.symm hcodes⟩
  | false =>
    have hsome : ¬ ∀ a, a < s.alen.toNat → ¬ ForeignByte (s.readA a) := fun hnone => by simp [hvalid.mpr hnone] at hv
    refine ⟨_, exec_b32dec_of_foreign hl hv, ⟨fun _ => ?_, fun _ => rfl⟩,
      ⟨fun he => absurd he hcodes, fun hnone => absurd hnone hsome⟩, fun _ => ⟨rfl, Memory.specified_unspecified⟩⟩
    by_contra hno
    exact hsome fun a ha hforeign => hno ⟨a, ha, hforeign⟩

/-- Settles O35: `base32Decode_congr`, by how the decoding ends. -/
theorem whitespaceAndCaseAreIgnored : Obligations.WhitespaceAndCaseAreIgnored := by
  intro s t hls hlt h
  have hsame := base32Decode_congr h
  cases hd : base32Decode t.operandA with
  | none =>
    exact ⟨_, _, exec_b32dec_of_invalid s hls (hsame.trans hd), exec_b32dec_of_invalid t hlt hd, rfl, rfl, rfl⟩
  | some bytes =>
    exact ⟨_, _, exec_b32dec_of_valid s bytes hls (hsame.trans hd), exec_b32dec_of_valid t bytes hlt hd, rfl, rfl, rfl⟩

end Sys2Proof.Machine
end

section
/-! SUPPORT. What `B32ENC` makes of its operand (40_base32.md R97 to R100), and that `B32DEC` takes it back (R108,
R109). -/

namespace Sys2Proof.Machine

variable {s t : State}

/-! ## The bits of the stream -/

/-- Five bits are their number. -/
theorem mod_32_eq_sum_bits (x : Nat) : x % 32 = ∑ b ∈ Finset.range 5, (x.testBit (4 - b)).toNat * 2 ^ (4 - b) := by
  simp only [Nat.toNat_testBit, Finset.sum_range_succ, Finset.sum_range_zero]
  omega

/-- Bit `b` of the bytes is bit `8n-1-b` of their number. -/
theorem streamBit_of_lt (f : Nat → Byte) {n b : Nat} (hb : b < 8 * n) :
    streamBit f n b = (bigEndian 8 (fun i => (f i).toNat) n).testBit (8 * n - 1 - b) := by
  have hbyte := bitField_bigEndian (w := 8) (f := fun i => (f i).toNat) (fun i _ => (f i).isLt)
    (show b / 8 < n by omega)
  have hbit : 7 - b % 8 < 8 := by omega
  have hpos : 8 * n - 8 * (b / 8 + 1) + (7 - b % 8) = 8 * n - 1 - b := by omega
  rw [streamBit, decide_eq_true hb, Bool.true_and, ← BitVec.testBit_toNat, ← hbyte, bitField, Nat.testBit_mod_two_pow,
    decide_eq_true hbit, Bool.true_and, Nat.testBit_div_two_pow, Nat.add_comm, hpos]

/-- With `p` zeros put in behind the bytes, the stream goes on in zeros. -/
theorem streamBit_padded (f : Nat → Byte) {n p b : Nat} (hb : b < 8 * n + p) :
    streamBit f n b = (bigEndian 8 (fun i => (f i).toNat) n * 2 ^ p).testBit (8 * n + p - 1 - b) := by
  rw [Nat.testBit_mul_two_pow]
  by_cases hin : b < 8 * n
  · have hpos : 8 * n + p - 1 - b - p = 8 * n - 1 - b := by omega
    rw [streamBit_of_lt f hin, decide_eq_true (by omega), Bool.true_and, hpos]
  · rw [streamBit, decide_eq_false hin, decide_eq_false (by omega), Bool.false_and, Bool.false_and]

/-! ## The command -/

/-- A text of an operand that fits is not longer than the length register can say. -/
theorem length_base32Encode_operandA_lt (hp : s.params.Admitted) (hl : s.alen.toNat ≤ s.capacity) :
    (base32Encode s.operandA).length < 2 ^ 32 := by
  rw [length_base32Encode, s.length_operandA]
  exact (s.textLength_le_outCapacity hl).trans_lt (s.outCapacity_lt hp)

theorem olen_of_b32enc (hp : s.params.Admitted) (hl : s.alen.toNat ≤ s.capacity) :
    (s.succeedOutput (base32Encode s.operandA)).olen.toNat = textLength s.alen.toNat := by
  rw [s.olen_succeedOutput_toNat _ (length_base32Encode_operandA_lt hp hl), length_base32Encode, s.length_operandA]

/-- Every character of a text is that of a symbol (40_base32.md R97). -/
theorem readO_of_b32enc (s : State) {j : Nat} (hj : j < textLength s.alen.toNat) :
    (s.succeedOutput (base32Encode s.operandA)).readO j = alphabet (bitField 5 (5 * textLength s.alen.toNat)
      (bigEndian 8 (fun i => (s.readA i).toNat) s.alen.toNat * 2 ^ padBits s.alen.toNat) j) := by
  rw [s.readO_succeedOutput _ j (by simpa using hj)]
  simp [State.operandA, base32Encode_range, closedText]

/-- Settles O27: `readO_of_b32enc`, the field read off the number or bit by bit off the stream. -/
theorem b32encMatchesClosedForm : Obligations.B32encMatchesClosedForm := by
  intro s hp hl
  refine ⟨_, exec_b32enc_of_fits s hl, rfl, olen_of_b32enc hp hl, fun j hj => ?_⟩
  obtain ⟨hbits, -⟩ := textLength_bits s.alen.toNat
  rw [readO_of_b32enc s hj]
  constructor
  · exact congrArg alphabet (bitField_whole hj)
  · refine congrArg alphabet ((mod_32_eq_sum_bits _).trans (Finset.sum_congr rfl fun b hb => ?_))
    have hb' := Finset.mem_range.mp hb
    have hpos : 4 - b + (5 * textLength s.alen.toNat - 5 * (j + 1))
        = 8 * s.alen.toNat + padBits s.alen.toNat - 1 - (5 * j + b) := by omega
    rw [streamBit_padded s.readA (p := padBits s.alen.toNat) (by omega), Nat.testBit_div_two_pow, hpos]

/-- The table by residue of 40_base32.md R98. -/
theorem textLength_table (n : Nat) :
    textLength n = 8 * (n / 5) + [0, 2, 4, 5, 7].getD (n % 5) 0 ∧
      5 * textLength n - 8 * n = [0, 2, 4, 1, 3].getD (n % 5) 0 ∧ textLength n % 8 ∈ [0, 2, 4, 5, 7] := by
  have hr : n % 5 < 5 := Nat.mod_lt n (by decide)
  unfold textLength
  interval_cases h : n % 5 <;> simp <;> omega

/-- Settles O28: the length of the text, and the table. -/
theorem b32encLength : Obligations.B32encLength := by
  intro s hp hl
  have holen := olen_of_b32enc hp hl
  obtain ⟨hlength, hpad, hresidue⟩ := textLength_table s.alen.toNat
  refine ⟨_, exec_b32enc_of_fits s hl, ?_⟩
  rw [holen]
  exact ⟨by rw [textLength, mul_comm], hlength, hpad, hresidue, s.textLength_le_outCapacity hl⟩

/-- Settles O29: every character of a text is one of the alphabet. -/
theorem b32encEmitsOnlyTheAlphabet : Obligations.B32encEmitsOnlyTheAlphabet := by
  intro s hp hl
  refine ⟨_, exec_b32enc_of_fits s hl, fun j hj => ?_⟩
  rw [olen_of_b32enc hp hl] at hj
  rw [readO_of_b32enc s hj]
  have hv := bitField_lt 5 (5 * textLength s.alen.toNat)
    (bigEndian 8 (fun i => (s.readA i).toNat) s.alen.toNat * 2 ^ padBits s.alen.toNat) j
  exact ⟨alphabet_code _ hv, isWhitespace_alphabet _ hv, alphabet_ne_pad _ hv⟩

/-! ## There and back -/

/-- A text holds no whitespace (40_base32.md R100). -/
theorem stripped_closedText (n S : Nat) : stripped (closedText n S) = closedText n S := by
  refine List.filter_eq_self.mpr fun c hc => ?_
  obtain ⟨j, -, rfl⟩ := List.mem_map.mp hc
  rw [isWhitespace_alphabet _ (bitField_lt ..), Bool.not_false]

theorem symbolValue_upperCase_alphabet {v : Nat} (hv : v < 32) : symbolValue (upperCase (alphabet v)) = some v := by
  rw [upperCase_alphabet v hv, symbolValue_alphabet v hv]

theorem validText_closedText (n S : Nat) : validText (closedText n S) = true := by
  rw [validText, stripped_closedText, closedText, List.all_map, List.all_eq_true]
  intro j _
  exact Option.isSome_of_eq_some (symbolValue_upperCase_alphabet (bitField_lt ..))

/-- The symbols of a text are the fields it was made of. -/
theorem symbolAt_closedText (n S : Nat) {j : Nat} (hj : j < textLength n) :
    symbolAt (closedText n S) j = bitField 5 (5 * textLength n) (S * 2 ^ padBits n) j := by
  rw [symbolAt, stripped_closedText, closedText, List.getElem?_map, List.getElem?_range hj]
  simp [symbolValue_upperCase_alphabet (bitField_lt 5 ..)]

/-- Decoding takes the closed form of a text back: its symbols are the number with the pad bits, which are the bits
dropped (40_base32.md R99, R106, R108). -/
theorem base32Decode_closedText {n S : Nat} (hS : S < 2 ^ (8 * n)) :
    base32Decode (closedText n S) = some ((List.range n).map fun i => BitVec.ofNat 8 (bitField 8 (8 * n) S i)) := by
  obtain ⟨hbits, hpad⟩ := textLength_bits n
  have hpadded : S * 2 ^ padBits n < 2 ^ (5 * textLength n) := by
    rw [hbits, pow_add]
    exact Nat.mul_lt_mul_of_pos_right hS (Nat.two_pow_pos _)
  have hnumber : bigEndian 5 (symbolAt (closedText n S)) (textLength n) = S * 2 ^ padBits n := by
    rw [bigEndian_congr fun j hj => symbolAt_closedText n S hj, bigEndian_bitField hpadded le_rfl, Nat.sub_self,
      pow_zero, Nat.div_one]
  have hlength : (stripped (closedText n S)).length = textLength n := by
    rw [stripped_closedText, closedText, List.length_map, List.length_range]
  have hbytes : 5 * textLength n / 8 = n := by omega
  have hdropped : 5 * textLength n % 8 = padBits n := by omega
  rw [base32Decode_of_valid (validText_closedText n S), hlength, hnumber, closedBytes, hbytes, hdropped,
    Nat.mul_div_cancel _ (Nat.two_pow_pos _)]

/-- Decoding takes the encoding of the operand back (40_base32.md R108). -/
theorem base32Decode_base32Encode_operandA (s : State) : base32Decode (base32Encode s.operandA) = some s.operandA := by
  have hbyte : ∀ i, (s.readA i).toNat < 2 ^ 8 := fun i => (s.readA i).isLt
  rw [State.operandA, base32Encode_range, base32Decode_closedText (bigEndian_lt fun i _ => hbyte i)]
  refine congrArg some (List.map_congr_left fun i hi => ?_)
  rw [bitField_bigEndian (fun i _ => hbyte i) (List.mem_range.mp hi), BitVec.ofNat_toNat, BitVec.setWidth_eq]

/-- Settles O36: the text fits `ABUF`, so it becomes the operand, and decoding takes it back. -/
theorem base32RoundTrip : Obligations.Base32RoundTrip := by
  intro s hp hlen
  have hl : s.alen.toNat ≤ s.capacity := by omega
  have htext := length_base32Encode_operandA_lt hp hl
  have hfits : (base32Encode s.operandA).length ≤ s.capacity := by
    rw [length_base32Encode, s.length_operandA, textLength]
    omega
  set t := s.succeedOutput (base32Encode s.operandA)
  have hresult : t.result = base32Encode s.operandA := s.result_succeedOutput _ htext
  have hload : hostMove (.seta t.result) t = .next (t.loadA (base32Encode s.operandA)) := by
    rw [hresult]
    exact hostMove_allowed (.seta _) t (decide_eq_true hfits)
  have hdecode : exec .b32dec (t.loadA (base32Encode s.operandA))
      = .next ((t.loadA (base32Encode s.operandA)).succeedOutput s.operandA) := by
    refine exec_b32dec_of_valid _ _ ?_ ?_
    · rw [t.toNat_alen_loadA _ htext]
      exact hfits
    · rw [t.operandA_loadA _ htext]
      exact base32Decode_base32Encode_operandA s
  refine ⟨t, _, _, exec_b32enc_of_fits s hl, hload, hdecode, rfl, State.result_succeedOutput _ _ ?_⟩
  rw [s.length_operandA]
  exact s.alen.isLt

/-- Settles O37: decoding is a left inverse of encoding. -/
theorem encodingIsOneToOne : Obligations.EncodingIsOneToOne := by
  intro s t s' t' hps hpt hls hlt hs ht h
  obtain rfl := eq_of_exec hs (exec_b32enc_of_fits s hls)
  obtain rfl := eq_of_exec ht (exec_b32enc_of_fits t hlt)
  rw [s.result_succeedOutput _ (length_base32Encode_operandA_lt hps hls),
    t.result_succeedOutput _ (length_base32Encode_operandA_lt hpt hlt)] at h
  have hback := congrArg base32Decode h
  rw [base32Decode_base32Encode_operandA, base32Decode_base32Encode_operandA] at hback
  exact Option.some.inj hback

end Sys2Proof.Machine
end

section
/-! SUPPORT. The counter's message (41_counter.md R120, R121): its bytes are the big-endian fields of the counter, so it
is the counter written in base 256. -/

namespace Sys2Proof.Machine

variable {i : Nat}

/-! ## The message -/

/-- Byte `i` of the message is bits `8*(7-i)+7 .. 8*(7-i)` of the counter (41_counter.md R120). -/
theorem counterByte_eq_extractLsb' (c : BitVec 64) (i : Nat) : counterByte c i = c.extractLsb' (8 * (7 - i)) 8 := by
  have hmask : c.toNat >>> (8 * (7 - i)) &&& 0xFF = c.toNat >>> (8 * (7 - i)) % 2 ^ 8 :=
    Nat.and_two_pow_sub_one_eq_mod _ 8
  apply BitVec.eq_of_toNat_eq
  rw [counterByte, hmask, BitVec.toNat_ofNat, Nat.mod_mod, BitVec.extractLsb'_toNat]

theorem toNat_counterByte (c : BitVec 64) (hi : i < 8) : (counterByte c i).toNat = bitField 8 (8 * 8) c.toNat i := by
  rw [counterByte_eq_extractLsb', BitVec.extractLsb'_toNat, Nat.shiftRight_eq_div_pow, bitField_whole hi]

/-- The counter is the number that its message writes in base 256 (41_counter.md R121). -/
theorem bigEndian_counterByte (c : BitVec 64) : bigEndian 8 (fun i => (counterByte c i).toNat) 8 = c.toNat := by
  rw [bigEndian_congr fun i hi => toNat_counterByte c hi, bigEndian_bitField c.isLt le_rfl, Nat.sub_self, pow_zero,
    Nat.div_one]

theorem getElem_counterMessage (c : BitVec 64) (hi : i < (counterMessage c).length) :
    (counterMessage c)[i] = counterByte c i := by
  simp [counterMessage]

theorem counterMessage_injective : Function.Injective counterMessage := by
  intro c d h
  have hbyte : ∀ i, i < 8 → counterByte c i = counterByte d i := fun i hi =>
    List.map_inj_left.mp h i (List.mem_range.mpr hi)
  apply BitVec.eq_of_toNat_eq
  rw [← bigEndian_counterByte c, ← bigEndian_counterByte d]
  exact bigEndian_congr fun i hi => congrArg BitVec.toNat (hbyte i hi)

/-- The number that 8 bytes write in base 256 is a counter, and they are its message. -/
theorem exists_counterMessage {bytes : List Byte} (h : bytes.length = 8) : ∃ c, counterMessage c = bytes := by
  set f : Nat → Nat := fun i => (bytes.getD i 0).toNat
  have hf : ∀ i, i < 8 → f i < 2 ^ 8 := fun i _ => (bytes.getD i 0).isLt
  have hnumber : (BitVec.ofNat 64 (bigEndian 8 f 8)).toNat = bigEndian 8 f 8 := by
    rw [BitVec.toNat_ofNat]
    exact Nat.mod_eq_of_lt (bigEndian_lt hf)
  refine ⟨BitVec.ofNat 64 (bigEndian 8 f 8), List.ext_getElem (by simp [h]) fun i _ hi => ?_⟩
  apply BitVec.eq_of_toNat_eq
  rw [getElem_counterMessage, toNat_counterByte _ (h ▸ hi), hnumber, bitField_bigEndian hf (h ▸ hi)]
  simp [f, hi]

/-! ## The command -/

theorem exec_ctrenc (s : State) : exec .ctrenc s = .next (s.succeedOutput (counterMessage s.ctr)) := rfl

theorem readO_of_ctrenc (s : State) (hi : i < 8) :
    (s.succeedOutput (counterMessage s.ctr)).readO i = counterByte s.ctr i := by
  rw [s.readO_succeedOutput _ i (by simpa using hi), getElem_counterMessage]

theorem length_counterMessage_lt (c : BitVec 64) : (counterMessage c).length < 2 ^ 32 := by
  rw [length_counterMessage]
  decide

theorem result_of_ctrenc (s : State) : (s.succeedOutput (counterMessage s.ctr)).result = counterMessage s.ctr :=
  s.result_succeedOutput _ (length_counterMessage_lt s.ctr)

/-- What the host can read back after `CTRENC` is the counter's message, and nothing else. -/
theorem exists_result_of_ctrenc_iff (s : State) (bytes : List Byte) :
    (∃ t, exec .ctrenc s = .next t ∧ t.result = bytes) ↔ counterMessage s.ctr = bytes := by
  constructor
  · rintro ⟨t, ht, rfl⟩
    obtain rfl := execCtrenc_cases s t ht
    exact (result_of_ctrenc s).symm
  · rintro rfl
    exact ⟨_, exec_ctrenc s, result_of_ctrenc s⟩

/-- Settles O38: word 0x30 decodes to `CTRENC`, whose string result is the counter's message. -/
theorem ctrencLaysOutTheCounter : Obligations.CtrencLaysOutTheCounter := by
  intro s
  have hword : hostMove (.cmd 0x30) s = exec .ctrenc s :=
    (hostMove_cmd 0x30 s).trans (executeWord_command (decode_encode .ctrenc rfl) s)
  obtain ⟨houtside, hoperands⟩ := succeedOutput_frame s (counterMessage s.ctr)
  exact ⟨_, exec_ctrenc s, hword.trans (exec_ctrenc s), rfl, rfl,
    fun i hi => (readO_of_ctrenc s hi).trans (counterByte_eq_extractLsb' s.ctr i), houtside, hoperands, rfl, rfl, rfl,
    succeedOutput_beyond s _ (length_counterMessage_lt s.ctr)⟩

/-- Settles O39: the message is the counter in base 256, `counterMessage_injective` and `exists_counterMessage`. -/
theorem counterMessageIsABijection : Obligations.CounterMessageIsABijection := by
  refine ⟨fun s => ⟨_, exec_ctrenc s, ?_⟩, fun bytes hlen => ?_⟩
  · rw [← bigEndian_counterByte s.ctr, bigEndian]
    refine Finset.sum_congr rfl fun i hi => ?_
    rw [readO_of_ctrenc s (Finset.mem_range.mp hi)]
  · obtain ⟨c, rfl⟩ := exists_counterMessage hlen
    refine ⟨c, fun s hs => (exists_result_of_ctrenc_iff s _).mpr (congrArg counterMessage hs), fun d hd => ?_⟩
    exact counterMessage_injective ((exists_result_of_ctrenc_iff (State.reset.setCtr d) _).mp (hd _ rfl))

end Sys2Proof.Machine
end

section
/-! SUPPORT. Truncation and formatting (42_truncate_format.md): the code of a digest as the number its bytes write, and
the decimal text of a number character by character. -/

namespace Sys2Proof.Machine

variable {alg : AlgSel} {d j r : Nat}

/-! ## The code of a digest -/

theorem truncationOffset_eq_mod (last : Byte) : truncationOffset last = last.toNat % 16 :=
  Nat.and_two_pow_sub_one_eq_mod _ 4

/-- The code of four bytes is the number they write: their fields do not overlap, so `|` is `+`
(42_truncate_format.md R130). -/
theorem toNat_truncatedCode (f : Nat → Byte) (off : Nat) :
    (truncatedCode (f off) (f (off + 1)) (f (off + 2)) (f (off + 3))).toNat = codeAt f off := by
  have h1 := (f (off + 1)).isLt
  have h2 := (f (off + 2)).isLt
  have h3 := (f (off + 3)).isLt
  have hmask : (f off).toNat &&& 0x7F = (f off).toNat % 128 := Nat.and_two_pow_sub_one_eq_mod _ 7
  have hlow : (f (off + 2)).toNat <<< 8 + (f (off + 3)).toNat < 2 ^ 16 := by omega
  have hmid : (f (off + 1)).toNat <<< 16 + ((f (off + 2)).toNat <<< 8 + (f (off + 3)).toNat) < 2 ^ 24 := by omega
  rw [truncatedCode, BitVec.toNat_ofNat, hmask, Nat.or_assoc, Nat.or_assoc, ← Nat.shiftLeft_add_eq_or_of_lt h3,
    ← Nat.shiftLeft_add_eq_or_of_lt hlow, ← Nat.shiftLeft_add_eq_or_of_lt hmid, codeAt]
  omega

/-- What `DTRUNC` reads out of a digest of `n` bytes (42_truncate_format.md R130). -/
theorem State.toNat_truncate (s : State) (n : Nat) :
    (s.truncate n).toNat = codeAt s.readA ((s.readA (n - 1)).toNat % 16) := by
  rw [State.truncate, toNat_truncatedCode, truncationOffset_eq_mod]

/-- The number at an offset is a function of four bytes, the first of them modulo 128. -/
theorem codeAt_congr {f g : Nat → Byte} {off : Nat} (h0 : (f off).toNat % 128 = (g off).toNat % 128)
    (h1 : f (off + 1) = g (off + 1)) (h2 : f (off + 2) = g (off + 2)) (h3 : f (off + 3) = g (off + 3)) :
    codeAt f off = codeAt g off := by
  rw [codeAt, codeAt, h0, h1, h2, h3]

/-- The word of a command, written to `CMD`, runs the command. -/
theorem hostMove_encode (s : State) {i : Instr} (h : i.wellFormed = true) :
    hostMove (.cmd (encode i)) s = exec i s :=
  (hostMove_cmd _ s).trans (executeWord_command (decode_encode i h) s)

/-- The selectors, digest lengths and words that 42_truncate_format.md R130 and R131 list. -/
theorem dtrunc_table {len : Nat} {w : BitVec 8}
    (h : (alg, len, w) ∈ [(AlgSel.sha1, 20, 0x40), (AlgSel.sha256, 32, 0x41), (AlgSel.sha512, 64, 0x42)]) :
    ∃ k, supportedHash alg = some k ∧ digestLength k = len ∧ encode (.dtrunc alg) = w := by
  simp only [List.mem_cons, Prod.mk.injEq, List.not_mem_nil, or_false] at h
  obtain ⟨rfl, rfl, rfl⟩ | ⟨rfl, rfl, rfl⟩ | ⟨rfl, rfl, rfl⟩ := h
  · exact ⟨.sha1, rfl, rfl, rfl⟩
  · exact ⟨.sha256, rfl, rfl, rfl⟩
  · exact ⟨.sha512, rfl, rfl, rfl⟩

/-- Settles O40, by the selector's row of `dtrunc_table` and the ways `DTRUNC` can end. -/
theorem dtruncExtractsTheCode : Obligations.DtruncExtractsTheCode := by
  refine fun s => ⟨fun alg len w hrow => ?_, hostMove_encode s (i := .dtrunc .alg3) rfl,
    exec_dtrunc_of_unsupported s .alg3 rfl⟩
  obtain ⟨k, hk, rfl, rfl⟩ := dtrunc_table hrow
  exact ⟨hostMove_encode s rfl,
    fun hl => ⟨_, exec_dtrunc_of_digest s alg k hk hl, rfl, s.toNat_truncate _, rfl⟩,
    fun hl => exec_dtrunc_of_wrongLength s alg k hk hl⟩

/-- Settles O41: both codes are the number at one offset, and the bytes there agree. -/
theorem codeDependsOnFiveBytes : Obligations.CodeDependsOnFiveBytes := by
  intro alg k s t hk hs ht hlast hbytes
  obtain ⟨h0, h1, h2, h3⟩ := hbytes _ rfl
  refine ⟨_, _, exec_dtrunc_of_digest s alg k hk hs, exec_dtrunc_of_digest t alg k hk ht, ?_, rfl, rfl⟩
  apply BitVec.eq_of_toNat_eq
  calc (s.truncate (digestLength k)).toNat
      = codeAt s.readA ((s.readA (digestLength k - 1)).toNat % 16) := s.toNat_truncate _
    _ = codeAt t.readA ((s.readA (digestLength k - 1)).toNat % 16) := codeAt_congr h0 h1 h2 h3
    _ = (t.truncate (digestLength k)).toNat := by rw [hlast, t.toNat_truncate]

/-! ## The characters of a decimal text -/

/-- A digit below the top of the text is not touched by the reduction modulo `10^d`. -/
theorem tokenChar_of_lt (r : Nat) (hj : j < d) : tokenChar r d j = 0x30 + r / 10 ^ (d - 1 - j) % 10 := by
  have hpow : 10 ^ d = 10 ^ (d - 1 - j) * (10 * 10 ^ j) := by
    rw [← pow_succ', ← pow_add]
    congr 1
    omega
  rw [tokenChar, hpow, Nat.mod_mul_right_div_self, Nat.mod_mul_right_mod]

theorem tokenChar_range (r d j : Nat) : 0x30 ≤ tokenChar r d j ∧ tokenChar r d j ≤ 0x39 := by
  unfold tokenChar
  omega

theorem toNat_ofNat_tokenChar (r d j : Nat) : (BitVec.ofNat 8 (tokenChar r d j)).toNat = tokenChar r d j := by
  obtain ⟨-, hle⟩ := tokenChar_range r d j
  exact Nat.mod_eq_of_lt (by omega)

/-- The text is the closed form, character by character (42_truncate_format.md R136). -/
theorem decimalText_eq_map_tokenChar (d r : Nat) :
    decimalText d r = (List.range d).map fun j => BitVec.ofNat 8 (tokenChar r d j) := by
  induction d generalizing r with
  | zero => rfl
  | succ d ih =>
    have hlast : tokenChar r (d + 1) d = 0x30 + r % 10 := by simp [tokenChar_of_lt]
    have hfirst : ∀ j ∈ List.range d, tokenChar (r / 10) d j = tokenChar r (d + 1) j := by
      intro j hj
      have hj' := List.mem_range.mp hj
      rw [tokenChar_of_lt _ hj', tokenChar_of_lt _ (by omega), Nat.div_div_eq_div_mul, ← pow_succ']
      congr 4
      omega
    rw [decimalText, ih, List.range_succ, List.map_append, List.map_singleton, hlast,
      List.map_congr_left fun j hj => congrArg (BitVec.ofNat 8) (hfirst j hj)]

/-- A reversed list with zeros put in front is the list read from index `d - 1` down to 0. -/
theorem leftpad_reverse_eq_map_getD {l : List Nat} (h : l.length ≤ d) :
    l.reverse.leftpad d 0 = (List.range d).map fun j => l.getD (d - 1 - j) 0 := by
  refine List.ext_getElem (by simp [h]) fun j hj _ => ?_
  simp only [List.leftpad, List.getElem_append, List.length_replicate, List.length_reverse, List.getElem_replicate,
    List.getElem_reverse, List.getElem_map, List.getElem_range]
  split
  · next hpad => rw [List.getD_eq_default _ _ (by omega)]
  · next hpad =>
    have hd : j < d := by simpa [h] using hj
    have hpos : l.length - 1 - (j - (d - l.length)) = d - 1 - j := by omega
    simp only [hpos]
    exact (List.getD_eq_getElem _ _ (by omega)).symm

theorem length_digits_mod_le (d r : Nat) : (Nat.digits 10 (r % 10 ^ d)).length ≤ d :=
  (Nat.digits_length_le_iff (by decide) _).mpr (Nat.mod_lt _ (by positivity))

/-- The text is the decimal digits of `r mod 10^d` with zeros put in front (42_truncate_format.md R136). -/
theorem decimalText_eq_digits (d r : Nat) :
    decimalText d r
      = ((Nat.digits 10 (r % 10 ^ d)).reverse.leftpad d 0).map fun x => BitVec.ofNat 8 (0x30 + x) := by
  rw [decimalText_eq_map_tokenChar, leftpad_reverse_eq_map_getD (length_digits_mod_le d r), List.map_map]
  refine List.map_congr_left fun j _ => ?_
  rw [Function.comp_apply, Nat.getD_digits _ _ (by decide), tokenChar]

theorem decimalText_zero (m : Nat) : decimalText m 0 = List.replicate m 0x30 := by
  induction m with
  | zero => rfl
  | succ m ih =>
    rw [decimalText, Nat.zero_div, ih, List.replicate_succ']
    rfl

/-- More characters than a number has digits are zeros in front (42_truncate_format.md R137). -/
theorem decimalText_add (m : Nat) (h : r < 10 ^ d) :
    decimalText (m + d) r = List.replicate m 0x30 ++ decimalText d r := by
  induction d generalizing r with
  | zero =>
    obtain rfl : r = 0 := Nat.lt_one_iff.mp h
    simpa [decimalText] using decimalText_zero m
  | succ d ih =>
    have hr : r / 10 < 10 ^ d := Nat.div_lt_of_lt_mul (by rwa [← pow_succ'])
    rw [← Nat.add_assoc, decimalText, ih hr, List.append_assoc, decimalText]

/-! ## `DFMT` -/

theorem length_decimalText_lt (hd : d ≤ 15) (r : Nat) : (decimalText d r).length < 2 ^ 32 := by
  rw [length_decimalText]
  omega

theorem olen_of_dfmt (s : State) (hd : d ≤ 15) :
    (s.succeedOutput (decimalText d s.code.toNat)).olen.toNat = d := by
  rw [s.olen_succeedOutput_toNat _ (length_decimalText_lt hd _), length_decimalText]

theorem readO_of_dfmt (s : State) (hj : j < d) :
    (s.succeedOutput (decimalText d s.code.toNat)).readO j = BitVec.ofNat 8 (tokenChar s.code.toNat d j) := by
  rw [s.readO_succeedOutput _ j (by simpa using hj)]
  simp [decimalText_eq_map_tokenChar]

theorem toNat_readO_of_dfmt (s : State) (hj : j < d) :
    ((s.succeedOutput (decimalText d s.code.toNat)).readO j).toNat = tokenChar s.code.toNat d j := by
  rw [readO_of_dfmt s hj, toNat_ofNat_tokenChar]

theorem result_of_dfmt (s : State) (hd : d ≤ 15) :
    (s.succeedOutput (decimalText d s.code.toNat)).result = decimalText d s.code.toNat :=
  s.result_succeedOutput _ (length_decimalText_lt hd _)

/-- Settles O42: `toNat_readO_of_dfmt`, and `decimalText_eq_digits` for the digits. -/
theorem dfmtMatchesClosedForm : Obligations.DfmtMatchesClosedForm := by
  intro s d hpos hd
  exact ⟨_, exec_dfmt_of_ne_zero s d (by omega), rfl, olen_of_dfmt s hd, fun j hj => toNat_readO_of_dfmt s hj,
    length_digits_mod_le d _, (result_of_dfmt s hd).trans (decimalText_eq_digits d _)⟩

/-- Settles O43: a digit count of 0 leaves an error, and every other count the characters of the closed form. -/
theorem dfmtDigitInvariant : Obligations.DfmtDigitInvariant := by
  intro s t d hd h herr
  obtain ⟨-, rfl⟩ | ⟨-, rfl⟩ := execDfmt_cases d s t h
  · rw [s.raise_err] at herr
    exact absurd herr (by decide)
  · refine ⟨olen_of_dfmt s hd, fun j hj => ?_⟩
    rw [toNat_readO_of_dfmt s hj]
    exact tokenChar_range _ d j

/-- A code has at most ten digits (42_truncate_format.md R137). -/
theorem code_lt_pow_ten (s : State) : s.code.toNat < 10 ^ 10 :=
  s.code.isLt.trans (by decide)

/-- The billions of a code are 0, 1 or 2, since `2^31 < 3 * 10^9`. -/
theorem tokenChar_code_first (s : State) :
    tokenChar s.code.toNat 10 0 = 0x30 ∨ tokenChar s.code.toNat 10 0 = 0x31 ∨
      tokenChar s.code.toNat 10 0 = 0x32 := by
  have hcode := s.code.isLt
  rw [tokenChar_of_lt _ (by decide)]
  omega

/-- Settles O44: a code is below `10^10`, so more characters are zeros in front. -/
theorem dfmtLargeDigitCounts : Obligations.DfmtLargeDigitCounts := by
  intro s d hmin hmax
  have hcode := code_lt_pow_ten s
  have hsplit := decimalText_add (d - 10) hcode
  rw [Nat.sub_add_cancel hmin] at hsplit
  refine ⟨Nat.mod_eq_of_lt (hcode.trans_le (Nat.pow_le_pow_right (by decide) hmin)), _, _,
    exec_dfmt_of_ne_zero s d (by omega), exec_dfmt_of_ne_zero s 10 (by decide), rfl, rfl, ?_, ?_, ?_⟩
  · rw [result_of_dfmt s hmax, result_of_dfmt s (by decide), hsplit]
  · rw [result_of_dfmt s (by decide), length_decimalText]
  · rw [readO_of_dfmt s (by decide)]
    obtain h | h | h := tokenChar_code_first s <;> simp [h]

/-- Settles O45: `DFMT 0` withholds its result (60_exceptions.md R184). -/
theorem dfmtZeroIsRejected : Obligations.DfmtZeroIsRejected :=
  fun s => ⟨_, exec_dfmt_zero s, rfl, rfl, Memory.specified_unspecified, rfl⟩

end Sys2Proof.Machine
end

section
/-! SUPPORT. The comparator (43_compare.md): with lengths that fit, one equation says what `CMP` answers: whether the
two strings are equal, and the length they share. -/

namespace Sys2Proof.Machine

/-! ## The strings compared -/

/-- The loop over two strings of one length decides their equality (43_compare.md R150). -/
theorem matchOf_eq_decide {as bs : List Byte} (h : as.length = bs.length) : matchOf as bs = decide (as = bs) := by
  obtain ⟨hdiff, -⟩ := comparePairs_spec as bs 0 0 h
  rw [matchOf, decide_eq_decide, hdiff]
  exact and_iff_right rfl

theorem alen_eq_blen_of_operands_eq {s : State} (h : s.operandA = s.operandB) : s.alen = s.blen :=
  BitVec.eq_of_toNat_eq (by simpa using congrArg List.length h)

/-- Two strings are equal when they have one length and one byte at every index below it. -/
theorem operandA_eq_operandB_iff (s : State) :
    s.operandA = s.operandB ↔ s.alen = s.blen ∧ ∀ i, i < s.alen.toNat → s.readA i = s.readB i := by
  constructor
  · intro h
    have hlen := alen_eq_blen_of_operands_eq h
    refine ⟨hlen, fun i hi => List.map_inj_left.mp ?_ i (List.mem_range.mpr hi)⟩
    rw [← State.operandA, h, State.operandB, hlen]
  · rintro ⟨hlen, hbytes⟩
    rw [State.operandA, State.operandB, ← hlen]
    exact List.map_congr_left fun i hi => hbytes i (List.mem_range.mp hi)

/-! ## `CMP` -/

/-- With lengths that fit, `CMP` answers the equality of the strings and the length they share, 0 where they share
none (43_compare.md R150). -/
theorem exec_cmp_of_fits (s : State) (ha : s.alen.toNat ≤ s.capacity) (hb : s.blen.toNat ≤ s.capacity) :
    exec .cmp s = .next
      (s.succeedCompare (decide (s.operandA = s.operandB)) (if s.alen = s.blen then s.alen else 0)) := by
  by_cases he : s.alen = s.blen
  · rw [exec_cmp_of_eq_length s ha hb he, scanOf_operands s he, if_pos he, matchOf_eq_decide (by simp [he])]
  · rw [exec_cmp_of_ne_length s ha hb he, if_neg he, decide_eq_false (mt alen_eq_blen_of_operands_eq he)]

/-- `CMP` rejects a length, or answers as `exec_cmp_of_fits` says. -/
theorem eq_of_exec_cmp {s t : State} (h : exec .cmp s = .next t) :
    ((s.capacity < s.alen.toNat ∨ s.capacity < s.blen.toNat) ∧ t = s.raise .compare .input) ∨
      (s.alen.toNat ≤ s.capacity ∧ s.blen.toNat ≤ s.capacity ∧
        t = s.succeedCompare (decide (s.operandA = s.operandB)) (if s.alen = s.blen then s.alen else 0)) := by
  obtain hlong | ⟨ha, hb, -, -⟩ | ⟨ha, hb, -, -⟩ := execCmp_cases s t h
  · exact .inl hlong
  all_goals exact .inr ⟨ha, hb, eq_of_exec h (exec_cmp_of_fits s ha hb)⟩

/-- Settles O46, by `exec_cmp_of_fits` and the rejection of a length beyond the capacity. -/
theorem cmpDecidesEquality : Obligations.CmpDecidesEquality := by
  intro s
  have hword : hostMove (.cmd 0x60) s = exec .cmp s := hostMove_encode s (i := .cmp) rfl
  by_cases hlong : s.capacity < s.alen.toNat ∨ s.capacity < s.blen.toNat
  · have hexec := exec_cmp_of_tooLong s hlong
    exact ⟨_, hexec, hword.trans hexec, rfl, fun ⟨ha, hb⟩ => absurd hlong (by omega),
      fun _ => ⟨rfl, rfl, rfl⟩⟩
  · have hexec := exec_cmp_of_fits s (by omega) (by omega)
    refine ⟨_, hexec, hword.trans hexec, rfl, fun _ => ⟨rfl, ?_, rfl⟩, fun h => absurd h hlong⟩
    rw [State.succeedCompare_matchFlag, decide_eq_true_iff]
    exact operandA_eq_operandB_iff s

/-- What `CMP` leaves in `SCAN`, said of the capacity and the lengths alone (43_compare.md R152, R153). -/
theorem scan_of_cmp {s t : State} (h : exec .cmp s = .next t) :
    t.scan = if s.alen.toNat ≤ s.capacity ∧ s.alen = s.blen then s.alen else 0 := by
  obtain ⟨hlong, rfl⟩ | ⟨ha, -, rfl⟩ := eq_of_exec_cmp h
  · rw [State.raise_compare_scan, if_neg]
    rintro ⟨hfits, he⟩
    rw [← he] at hlong
    omega
  · simp [ha]

/-- Settles O47, by `scan_of_cmp`. -/
theorem scanDependsOnLengthsOnly : Obligations.ScanDependsOnLengthsOnly := by
  intro s t s' t' hp hla hlb hs ht
  refine ⟨?_, fun hfits he => ?_⟩
  · rw [scan_of_cmp hs, scan_of_cmp ht, capacity_eq_of_params_eq hp, hla, hlb]
  · rw [scan_of_cmp hs, if_pos ⟨hfits, he⟩]

/-- Settles O48: both states reject a length or neither does, and equality of the strings is symmetric. -/
theorem cmpIsSymmetric : Obligations.CmpIsSymmetric := by
  intro s t s' t' hp hla hlb hoa hob hs ht
  have hc := capacity_eq_of_params_eq hp
  obtain ⟨hlong, rfl⟩ | ⟨ha, hb, rfl⟩ := eq_of_exec_cmp hs
  · rw [hc, hla, hlb] at hlong
    obtain rfl := eq_of_exec ht (exec_cmp_of_tooLong t hlong.symm)
    exact ⟨rfl, rfl, rfl⟩
  · rw [hc, hla] at ha
    rw [hc, hlb] at hb
    obtain rfl := eq_of_exec ht (exec_cmp_of_fits t hb ha)
    refine ⟨?_, ?_, rfl⟩
    · rw [State.succeedCompare_matchFlag, State.succeedCompare_matchFlag, hoa, hob, decide_eq_decide]
      exact eq_comm
    · rw [State.succeedCompare_scan, State.succeedCompare_scan, hla, hlb]
      by_cases he : t.blen = t.alen
      · rw [if_pos he, if_pos he.symm, he]
      · rw [if_neg he, if_neg (Ne.symm he)]

end Sys2Proof.Machine
end

section
/-! SUPPORT. Housekeeping (44_housekeeping.md, 70_reset_and_hazards.md R201): what `CLR` leaves, and how it differs
from reset. -/

namespace Sys2Proof.Machine

variable (s : State)

/-! ## `CLR` -/

theorem exec_clr : exec .clr s = .next s.clearAll := rfl

@[simp] theorem State.clearAll_readA (a : Nat) : s.clearAll.readA a = 0 := Memory.read_zeros .abuf s.draws a
@[simp] theorem State.clearAll_readB (a : Nat) : s.clearAll.readB a = 0 := Memory.read_zeros .bbuf s.draws a
@[simp] theorem State.clearAll_readO (a : Nat) : s.clearAll.readO a = 0 := Memory.read_zeros .obuf s.draws a

/-- `clearAll` keeps nothing of the slots it writes. -/
@[simp] theorem State.clearAll_clearAll : s.clearAll.clearAll = s.clearAll := rfl

/-- Settles O49: word 0x70 decodes to `CLR`, and `State.clearAll` zeroes every slot and is idempotent. -/
theorem clrZeroesEverything : Obligations.ClrZeroesEverything := by
  intro s
  have hword : hostMove (.cmd 0x70) s = exec .clr s := hostMove_encode s (i := .clr) rfl
  have hagain : exec .clr s.clearAll = .next s.clearAll := by rw [exec_clr, State.clearAll_clearAll]
  exact ⟨s.clearAll, exec_clr s, hword.trans (exec_clr s), rfl, rfl, rfl, rfl, rfl, rfl, rfl, rfl,
    fun a => ⟨s.clearAll_readA a, s.clearAll_readB a, s.clearAll_readO a, Memory.specified_zeros a,
      Memory.specified_zeros a, Memory.specified_zeros a⟩,
    exec_outside (exec_clr s), hagain⟩

/-! ## Reset against `CLR` -/

/-- Reset is `CLR` but for the buffers, which reset forgets and `CLR` zeroes (70_reset_and_hazards.md R201). -/
theorem State.resetBlock_eq_clearAll_with_unspecified :
    s.resetBlock = { s.clearAll with abuf := .unspecified, bbuf := .unspecified, obuf := .unspecified } := rfl

/-- Settles O50: `State.resetBlock_eq_clearAll_with_unspecified`, and no byte of a forgotten buffer is known. -/
theorem clrAndResetDifferInBuffersOnly : Obligations.ClrAndResetDifferInBuffersOnly :=
  fun s => ⟨s.clearAll, exec_clr s, s.resetBlock_eq_clearAll_with_unspecified,
    fun a => ⟨Memory.specified_unspecified a, Memory.specified_unspecified a, Memory.specified_unspecified a⟩⟩

end Sys2Proof.Machine
end

section
/-! SUPPORT. The moves of the host's flows (45_host_flows.md R166 to R169): the state each move leaves, what the host
reads back of it, and that the host's check of `ERR` goes on after a success and gives up after an error. -/

namespace Sys2Proof.Machine

variable (s : State)

/-! ## A move made now -/

/-- The state in which a move made now takes effect: what waited still waits, unspecified bytes are drawn anew (log
entries 2 and 4). -/
def State.redrawn (s : State) : State :=
  s.takeInput s.inputs

@[simp] theorem State.redrawn_params : s.redrawn.params = s.params := rfl

/-! What a move has left in the block is not drawn again. -/

@[simp] theorem State.redrawn_loadA (vs : List Byte) : (s.loadA vs).redrawn = s.redrawn.loadA vs := rfl
@[simp] theorem State.redrawn_loadB (vs : List Byte) : (s.loadB vs).redrawn = s.redrawn.loadB vs := rfl
@[simp] theorem State.redrawn_setCtr (c : BitVec 64) : (s.setCtr c).redrawn = s.redrawn.setCtr c := rfl

/-! ## The moves -/

theorem hostDoes_seta (vs : List Byte) (h : vs.length ≤ s.capacity) :
    hostDoes (.seta vs) s = .next (s.redrawn.loadA vs) :=
  hostMove_allowed (.seta vs) s.redrawn (decide_eq_true h)

theorem hostDoes_seta_of_tooLong (vs : List Byte) (h : s.capacity < vs.length) :
    hostDoes (.seta vs) s = .refused .hostMoveUnavailable :=
  hostMove_refused (.seta vs) s.redrawn (decide_eq_false (Nat.not_le.mpr h))

theorem hostDoes_setb (vs : List Byte) (h : vs.length ≤ s.capacity) :
    hostDoes (.setb vs) s = .next (s.redrawn.loadB vs) :=
  hostMove_allowed (.setb vs) s.redrawn (decide_eq_true h)

theorem hostDoes_setctr (c : BitVec 64) : hostDoes (.setctr c) s = .next (s.redrawn.setCtr c) := rfl

theorem hostDoes_rdout : hostDoes .rdout s = .next (s.redrawn.answer (.bytes s.redrawn.result)) := rfl

theorem hostDoes_rd (r : Reg) : hostDoes (.rd r) s = .next (s.redrawn.answer (.word (s.register r))) := by
  cases r <;> rfl

theorem hostDoes_encode {i : Instr} (h : i.wellFormed = true) : hostDoes (.cmd (encode i)) s = exec i s.redrawn :=
  hostMove_encode s.redrawn h

/-! ## What the host reads back -/

/-- The host reads `MATCH` as 1 when it is set (20_memory.md R61). -/
theorem register_matchFlag_eq_one_iff : s.register .matchFlag = 1 ↔ s.matchFlag = true := by
  have hbool : ∀ b : Bool, (BitVec.ofBool b).setWidth 64 = 1#64 ↔ b = true := by decide
  exact hbool s.matchFlag

/-- A completion code comes back whole from the 64 bits of the host's read. -/
theorem setWidth_register_err : (s.register .err).setWidth 3 = s.err :=
  BitVec.setWidth_setWidth_of_le s.err (by decide)

theorem register_err_eq_zero_iff : s.register .err = 0 ↔ s.err = 0 := by
  constructor
  · intro h
    rw [← setWidth_register_err s, h]
    rfl
  · intro h
    rw [State.register, h]
    rfl

/-- A flow ends with a value or a completion code, the block's parameter as it was. -/
def EndsWith {α : Type} (flow : Flow α) (p : Params) (r : Except (BitVec 3) α) : Prop :=
  ∃ t, t.params = p ∧ flow = .next (t, r)

/-- The host goes on after a success (45_host_flows.md R166). -/
theorem checkErr_of_ok {α : Type} (go : State → Flow α) (h : s.err = 0) :
    checkErr s go = go (s.redrawn.answer (.word (s.register .err))) := by
  rw [checkErr, hostDoes_rd, andThen_next]
  exact if_pos ((register_err_eq_zero_iff s).mpr h)

/-- The host gives up with any other completion code (45_host_flows.md R166). -/
theorem checkErr_of_error {α : Type} (go : State → Flow α) (h : s.err ≠ 0) :
    EndsWith (checkErr s go) s.params (.error s.err) := by
  refine ⟨s.redrawn.answer (.word (s.register .err)), rfl, ?_⟩
  rw [checkErr, hostDoes_rd, andThen_next, ← setWidth_register_err s]
  exact if_neg (mt (register_err_eq_zero_iff s).mp h)

/-! ## A command and the host's check of `ERR` -/

section

variable {s : State} {i : Instr} {α : Type}

/-- The host takes the string result of a command that ends without error. -/
theorem checkedOutputStage {vs : List Byte} (hw : i.wellFormed = true) (hlen : vs.length < 2 ^ 32)
    (hexec : exec i s.redrawn = .next (s.redrawn.succeedOutput vs)) :
    ∃ t, t.params = s.params ∧ replyBytes t.reply = vs ∧ ∀ go : State → Flow α,
      (andThen (hostDoes (.cmd (encode i)) s) fun s1 => checkErr s1 fun s2 => andThen (hostDoes .rdout s2) go)
        = go t := by
  set done := s.redrawn.succeedOutput vs
  refine ⟨(done.redrawn.answer (.word (done.register .err))).redrawn.answer (.bytes vs), rfl, rfl, fun go => ?_⟩
  have hresult : (done.redrawn.answer (.word (done.register .err))).redrawn.result = vs :=
    s.redrawn.redrawn.redrawn.result_succeedOutput vs hlen
  rw [hostDoes_encode s hw, hexec, andThen_next, checkErr_of_ok done _ rfl, hostDoes_rdout, andThen_next, hresult]

/-- The host ends the flow with the code of a command that ends in error. -/
theorem checkedErrorStage {e : ErrCode} (slot : ResultSlot) (hw : i.wellFormed = true) (he : e.bits ≠ 0)
    (hexec : exec i s.redrawn = .next (s.redrawn.raise slot e)) (go : State → Flow α) :
    EndsWith (andThen (hostDoes (.cmd (encode i)) s) fun s1 => checkErr s1 go) s.params (.error e.bits) := by
  have herr := s.redrawn.raise_err slot e
  have hparams : (s.redrawn.raise slot e).params = s.params := by cases slot <;> rfl
  have hends := checkErr_of_error (s.redrawn.raise slot e) go (herr ▸ he)
  rw [hostDoes_encode s hw, hexec, andThen_next]
  rwa [herr, hparams] at hends

end

end Sys2Proof.Machine
end

section
/-! SUPPORT. HOTP through the block (45_host_flows.md R166): the counter's message, the digest's code, its decimal
text; and an algorithm for `DTRUNC` that is not the HMAC's (R167). -/

namespace Sys2Proof.Machine

variable {s : State} {α : Type}

/-! ## The counter's message -/

theorem counterStage (c : BitVec 64) (s : State) :
    ∃ t, t.params = s.params ∧ replyBytes t.reply = counterMessage c ∧ ∀ go : State → Flow α,
      (andThen (hostDoes (.setctr c) s) fun s1 => andThen (hostDoes (.cmd (encode .ctrenc)) s1) fun s2 =>
        andThen (hostDoes .rdout s2) go) = go t := by
  set counted := s.redrawn.redrawn.setCtr c
  set done := counted.succeedOutput (counterMessage c)
  have hexec : exec .ctrenc counted = .next done := exec_ctrenc counted
  have hresult : done.redrawn.result = counterMessage c := result_of_ctrenc counted.redrawn
  refine ⟨done.redrawn.answer (.bytes (counterMessage c)), rfl, rfl, fun go => ?_⟩
  rw [hostDoes_setctr, andThen_next, hostDoes_encode _ rfl, State.redrawn_setCtr, hexec, andThen_next, hostDoes_rdout,
    andThen_next, hresult]

/-! ## The digest's code -/

/-- A loaded byte reads as that byte of the string. -/
theorem State.readA_loadA (s : State) (vs : List Byte) {i : Nat} (h : i < vs.length) :
    (s.loadA vs).readA i = vs.getD i 0 := by
  simp [State.readA, Memory.read_writeFrom, h]

/-- The code of a loaded digest is the number at the offset its last byte names (42_truncate_format.md R130). -/
theorem State.toNat_truncate_loadA (s : State) {vs : List Byte} {n : Nat} (hn : vs.length = n) (hmin : 20 ≤ n) :
    ((s.loadA vs).truncate n).toNat = codeAt (fun i => vs.getD i 0) ((vs.getD (n - 1) 0).toNat % 16) := by
  have hread : ∀ i, i < n → (s.loadA vs).readA i = vs.getD i 0 := fun i hi => s.readA_loadA vs (hn ▸ hi)
  rw [State.toNat_truncate, hread (n - 1) (by omega)]
  refine codeAt_congr ?_ (hread _ (by omega)) (hread _ (by omega)) (hread _ (by omega))
  rw [hread _ (by omega)]

theorem digestLength_bounds (h : Hash) : 20 ≤ digestLength h ∧ digestLength h ≤ 64 := by
  cases h <;> decide

theorem supportedHash_selectorOf (h : Hash) : supportedHash (selectorOf h) = some h := by
  cases h <;> rfl

theorem length_lt_of_le_capacity (hp : s.params.Admitted) {vs : List Byte} (h : vs.length ≤ s.capacity) :
    vs.length < 2 ^ 32 :=
  (h.trans hp.2).trans_lt (by decide)

section

variable {h : Hash} (digest : Vector Byte (digestLength h))

/-- A digest fits `ABUF` of every admitted capacity (00_scope.md R6, 42_truncate_format.md R131). -/
theorem length_digest_le_capacity (hp : s.params.Admitted) : digest.toList.length ≤ s.capacity := by
  obtain ⟨-, hmax⟩ := digestLength_bounds h
  rw [Vector.length_toList]
  exact hmax.trans hp.1

theorem toNat_alen_loadA_digest (s : State) : (s.loadA digest.toList).alen.toNat = digestLength h := by
  obtain ⟨-, hmax⟩ := digestLength_bounds h
  rw [s.toNat_alen_loadA _ (by rw [Vector.length_toList]; omega), Vector.length_toList]

theorem truncationStage (hp : s.params.Admitted) :
    ∃ t, t.params = s.params ∧
      t.code.toNat
        = codeAt (fun i => digest.toList.getD i 0) ((digest.toList.getD (digestLength h - 1) 0).toNat % 16) ∧
      ∀ go : State → Flow α,
        (andThen (hostDoes (.seta digest.toList) s) fun s1 =>
          andThen (hostDoes (.cmd (encode (.dtrunc (selectorOf h)))) s1) fun s2 => checkErr s2 go) = go t := by
  set loaded := s.redrawn.redrawn.loadA digest.toList
  set done := loaded.succeedCode (loaded.truncate (digestLength h))
  have hexec : exec (.dtrunc (selectorOf h)) loaded = .next done :=
    exec_dtrunc_of_digest loaded _ h (supportedHash_selectorOf h) (toNat_alen_loadA_digest digest _)
  have hcode := s.redrawn.redrawn.toNat_truncate_loadA digest.length_toList (digestLength_bounds h).1
  refine ⟨done.redrawn.answer (.word (done.register .err)), rfl, hcode, fun go => ?_⟩
  rw [hostDoes_seta s _ (length_digest_le_capacity digest hp), andThen_next, hostDoes_encode _ rfl,
    State.redrawn_loadA, hexec, andThen_next, checkErr_of_ok done go rfl]

end

theorem digestLength_injective : Function.Injective digestLength := by
  intro h h' heq
  cases h <;> cases h' <;> cases heq <;> rfl

/-- Settles O55: the digest fits, and its length is not the one `DTRUNC` asks for. -/
theorem mismatchedAlgorithmIsCaught : Obligations.MismatchedAlgorithmIsCaught := by
  intro hmac key message h h' s hp hne
  have hmove := hostMove_allowed (.seta (hmac h key message).toList) s
    (decide_eq_true (length_digest_le_capacity (hmac h key message) hp))
  have hlen := toNat_alen_loadA_digest (hmac h key message) s
  exact ⟨_, hmove, exec_dtrunc_of_wrongLength _ _ h' (supportedHash_selectorOf h')
    (hlen.trans_ne (digestLength_injective.ne hne))⟩

/-! ## The decimal text -/

/-- The last moves of HOTP, from the digest's code on (45_host_flows.md R166). -/
def formatFlow (digits : Nat) (s : State) : Flow (List Byte) :=
  andThen (hostDoes (.cmd (encode (.dfmt digits))) s) fun s1 =>
  checkErr s1 fun s2 =>
  andThen (hostDoes .rdout s2) fun s3 =>
  .next (s3, .ok (replyBytes s3.reply))

/-- What the host has of a code: its text, or `ERR_CONFIG` when no digit is asked for (42_truncate_format.md R136,
R139). -/
def codeAnswer (digits code : Nat) : Except (BitVec 3) (List Byte) :=
  if digits = 0 then .error (ErrCode.bits .config) else .ok (decimalText digits code)

theorem formatFlow_endsWith (s : State) {d : Nat} (hd : d ≤ 15) :
    EndsWith (formatFlow d s) s.params (codeAnswer d s.code.toNat) := by
  by_cases hzero : d = 0
  · subst hzero
    exact checkedErrorStage .output rfl (by decide) (exec_dfmt_zero s.redrawn) _
  · obtain ⟨t, hparams, hreply, hgo⟩ := checkedOutputStage (i := .dfmt d) (decide_eq_true (by omega))
      (length_decimalText_lt hd s.code.toNat) (exec_dfmt_of_ne_zero s.redrawn d hzero)
    refine ⟨t, hparams, ?_⟩
    rw [formatFlow, hgo, hreply, codeAnswer, if_neg hzero]

/-! ## HOTP -/

section

variable (hmac : Hmac) (key : List Byte) (counter : Nat) {d : Nat} (h : Hash)

/-- HOTP comes down to formatting the code truncated out of the HMAC of the counter's message. -/
theorem hotp_eq_formatFlow (hp : s.params.Admitted) (hd : d ≤ 15) :
    ∃ t, t.params = s.params ∧ t.code.toNat = hotpCode hmac key counter h ∧
      hotp hmac key counter d h s = formatFlow d t := by
  obtain ⟨t1, hparams1, hmessage, hgo1⟩ := counterStage (BitVec.ofNat 64 counter) s
  obtain ⟨t2, hparams2, hcode, hgo2⟩ :=
    truncationStage (hmac h key (counterMessage (BitVec.ofNat 64 counter))) (hparams1 ▸ hp)
  refine ⟨t2, hparams2.trans hparams1, hcode, ?_⟩
  rw [hotp, if_neg (Nat.not_lt.mpr hd), hgo1, hmessage, hgo2, formatFlow]

theorem hotp_endsWith (hp : s.params.Admitted) (hd : d ≤ 15) :
    EndsWith (hotp hmac key counter d h s) s.params (codeAnswer d (hotpCode hmac key counter h)) := by
  obtain ⟨t, hparams, hcode, heq⟩ := hotp_eq_formatFlow hmac key counter h hp hd
  have hends := formatFlow_endsWith t hd
  rwa [hcode, hparams, ← heq] at hends

end

/-- Settles O51: `hotp_endsWith`, and the decimal text character by character. -/
theorem hotpIsTheTruncatedHmac : Obligations.HotpIsTheTruncatedHmac := by
  intro hmac key counter d h s hinv hpos hd
  obtain ⟨t, -, heq⟩ := hotp_endsWith hmac key counter h hinv.admitted hd
  rw [codeAnswer, if_neg (by omega)] at heq
  exact ⟨t, _, heq, decimalText_eq_map_tokenChar d _⟩

end Sys2Proof.Machine
end

section
/-! SUPPORT. TOTP and verification through the block (45_host_flows.md R168 to R174): what a time's token is, that one
round of the loop compares the candidate with it, and the host's checks before the first move. -/

namespace Sys2Proof.Machine

variable {s s' : State} {hmac : Hmac} {secret candidate token : List Byte} {time : Int} {stepSeconds d : Nat}
  {h : Hash}

/-! ## TOTP -/

/-- What the host has of a secret and a time: HOTP of the bytes decoded, or `ERR_ENCODING` (45_host_flows.md R168). -/
def totpAnswer (hmac : Hmac) (secret : List Byte) (time : Int) (stepSeconds d : Nat) (h : Hash) :
    Except (BitVec 3) (List Byte) :=
  match base32Decode secret with
  | none => .error (ErrCode.bits .encoding)
  | some key => codeAnswer d (hotpCode hmac key (time.toNat / stepSeconds) h)

/-- What every call of TOTP asks for: a secret that fits `ABUF` and a time and a step that are defined
(93_implementation_defined.md U9). -/
structure TotpDefined (s : State) (secret : List Byte) (time : Int) (stepSeconds : Nat) : Prop where
  fits : secret.length ≤ s.capacity
  time : 0 ≤ time
  step : stepSeconds ≠ 0

theorem totp_endsWith (hp : s.params.Admitted) (hd : d ≤ 15) (hdef : TotpDefined s secret time stepSeconds) :
    EndsWith (totp hmac secret time stepSeconds d h s) s.params (totpAnswer hmac secret time stepSeconds d h) := by
  obtain ⟨hfits, htime, hstep⟩ := hdef
  have hlen := length_lt_of_le_capacity hp hfits
  set loaded := s.redrawn.loadA secret with hloaded
  have hoperand : loaded.redrawn.operandA = secret := s.redrawn.redrawn.operandA_loadA secret hlen
  have halen : loaded.redrawn.alen.toNat ≤ loaded.redrawn.capacity :=
    (s.redrawn.redrawn.toNat_alen_loadA secret hlen).trans_le hfits
  rw [totp, if_neg (by omega), hostDoes_seta s _ hfits, andThen_next, ← hloaded, totpAnswer]
  cases hdecode : base32Decode secret with
  | none =>
    exact checkedErrorStage .output rfl (by decide) (exec_b32dec_of_invalid _ halen (hoperand.symm ▸ hdecode)) _
  | some key =>
    have hdecode' : base32Decode loaded.redrawn.operandA = some key := hoperand.symm ▸ hdecode
    obtain ⟨t, hparams, hreply, hgo⟩ := checkedOutputStage (i := .b32dec) rfl (length_lt_of_base32Decode hdecode')
      (exec_b32dec_of_valid _ key halen hdecode')
    have hparams' : s.params = t.params := hparams.symm
    rw [hgo, hreply, hparams']
    exact hotp_endsWith hmac key _ h (hparams ▸ hp) hd

/-- Outside its preconditions TOTP is refused, so a call that ends meets them. -/
theorem totpDefined_of_next {p : State × Except (BitVec 3) (List Byte)}
    (heq : totp hmac secret time stepSeconds d h s = .next p) : TotpDefined s secret time stepSeconds := by
  by_cases hundefined : time < 0 ∨ stepSeconds = 0
  · rw [totp, if_pos hundefined] at heq
    cases heq
  · rw [totp, if_neg hundefined] at heq
    refine ⟨Nat.not_lt.mp fun hlong => ?_, by omega, by omega⟩
    rw [hostDoes_seta_of_tooLong s _ hlong] at heq
    cases heq

theorem eq_totpAnswer_of_totp {r : Except (BitVec 3) (List Byte)} (hp : s.params.Admitted) (hd : d ≤ 15)
    (heq : totp hmac secret time stepSeconds d h s = .next (s', r)) :
    totpAnswer hmac secret time stepSeconds d h = r := by
  obtain ⟨t, -, heq'⟩ := totp_endsWith (hmac := hmac) (h := h) hp hd (totpDefined_of_next heq)
  exact (Prod.mk.inj (Host.Outcome.next.inj (heq'.symm.trans heq))).2

/-- There is a token exactly when the secret decodes and a digit is asked for. -/
theorem totpAnswer_eq_ok_iff :
    totpAnswer hmac secret time stepSeconds d h = .ok token ↔ ∃ key, base32Decode secret = some key ∧ d ≠ 0 ∧
      decimalText d (hotpCode hmac key (time.toNat / stepSeconds) h) = token := by
  unfold totpAnswer codeAnswer
  cases base32Decode secret with
  | none => simp
  | some key => by_cases hzero : d = 0 <;> simp [hzero]

theorem exists_decimalText_of_totpAnswer (htoken : totpAnswer hmac secret time stepSeconds d h = .ok token) :
    ∃ code, decimalText d code = token := by
  obtain ⟨key, -, -, htext⟩ := totpAnswer_eq_ok_iff.mp htoken
  exact ⟨_, htext⟩

theorem length_of_totpAnswer (htoken : totpAnswer hmac secret time stepSeconds d h = .ok token) : token.length = d := by
  obtain ⟨code, rfl⟩ := exists_decimalText_of_totpAnswer htoken
  exact length_decimalText d code

/-- With a token for one time there is one for every other. -/
theorem exists_totpAnswer_eq_ok (time' : Int) (htoken : totpAnswer hmac secret time stepSeconds d h = .ok token) :
    ∃ token', totpAnswer hmac secret time' stepSeconds d h = .ok token' := by
  obtain ⟨key, hdecode, hpos, -⟩ := totpAnswer_eq_ok_iff.mp htoken
  exact ⟨_, totpAnswer_eq_ok_iff.mpr ⟨key, hdecode, hpos, rfl⟩⟩

/-- Normalisation takes nothing out of a decimal text (45_host_flows.md R170). -/
theorem normaliseCandidate_decimalText (d code : Nat) :
    normaliseCandidate (decimalText d code) = decimalText d code := by
  have hkept : ∀ c : Byte, 0x30 ≤ c.toNat →
      (!(c == 0x09 || c == 0x0A || c == 0x0B || c == 0x0C || c == 0x0D || c == 0x20 || c == 0x2D)) = true := by
    decide
  refine List.filter_eq_self.mpr fun c hc => hkept c ?_
  rw [decimalText_eq_map_tokenChar] at hc
  obtain ⟨j, -, rfl⟩ := List.mem_map.mp hc
  rw [toNat_ofNat_tokenChar]
  exact (tokenChar_range code d j).1

theorem length_normaliseCandidate_le (candidate : List Byte) :
    (normaliseCandidate candidate).length ≤ candidate.length :=
  List.length_filter_le _ candidate

/-! ## One round of the loop -/

/-- The host compares a candidate with a token through the block (45_host_flows.md R169). -/
theorem compareTokens_eq (hp : s.params.Admitted) (hc : candidate.length ≤ s.capacity)
    (ht : token.length ≤ s.capacity) :
    ∃ t, t.params = s.params ∧ ∀ go, compareTokens candidate token s go = go t (decide (candidate = token)) := by
  set loaded := (s.redrawn.redrawn.redrawn.loadB token).loadA candidate with hloaded
  have hlc := length_lt_of_le_capacity hp hc
  have hlt := length_lt_of_le_capacity hp ht
  have ha : loaded.operandA = candidate := State.operandA_loadA _ candidate hlc
  have hb : loaded.operandB = token := State.operandB_loadB s.redrawn.redrawn.redrawn token hlt
  have hexec := exec_cmp_of_fits loaded ((State.toNat_alen_loadA _ candidate hlc).trans_le hc)
    ((State.toNat_blen_loadB s.redrawn.redrawn.redrawn token hlt).trans_le ht)
  rw [ha, hb] at hexec
  set done := loaded.succeedCompare (decide (candidate = token)) (if loaded.alen = loaded.blen then loaded.alen else 0)
  have hmatch : done.register .matchFlag = 1 ↔ candidate = token := by
    rw [register_matchFlag_eq_one_iff, State.succeedCompare_matchFlag, decide_eq_true_iff]
  refine ⟨done.redrawn.answer (.word (done.register .matchFlag)), by simp [done, loaded], fun go => ?_⟩
  rw [compareTokens, hostDoes_setb s token ht, andThen_next, hostDoes_seta (s.redrawn.loadB token) candidate hc,
    andThen_next, hostDoes_encode _ rfl, State.redrawn_loadA, State.redrawn_loadB, State.redrawn_loadB, ← hloaded, hexec,
    andThen_next, hostDoes_rd, andThen_next, State.answer_reply, replyWord, decide_eq_decide.mpr hmatch]

/-- A round whose time has a token ends the loop on a match and goes on otherwise (45_host_flows.md R169). -/
theorem verifyOffsets_cons (hp : s.params.Admitted) (hd : d ≤ 15) {i : Int} (rest : List Int)
    (hdef : TotpDefined s secret (time + i * stepSeconds) stepSeconds) (hc : candidate.length ≤ s.capacity)
    (htoken : totpAnswer hmac secret (time + i * stepSeconds) stepSeconds d h = .ok token) :
    ∃ t, t.params = s.params ∧ verifyOffsets hmac secret candidate time stepSeconds d h (i :: rest) s
      = if candidate = token then .next (t, .ok true)
        else verifyOffsets hmac secret candidate time stepSeconds d h rest t := by
  obtain ⟨s1, hparams1, htotp⟩ := totp_endsWith (hmac := hmac) (h := h) hp hd hdef
  have hcapacity := capacity_eq_of_params_eq hparams1
  have hfits : token.length ≤ s1.capacity := by
    rw [length_of_totpAnswer htoken, hcapacity]
    exact hd.trans (le_trans (by decide) hp.1)
  obtain ⟨t, hparams, hgo⟩ := compareTokens_eq (hparams1 ▸ hp) (hcapacity ▸ hc) hfits
  refine ⟨t, hparams.trans hparams1, ?_⟩
  simp only [verifyOffsets, htotp, htoken, andThen_next, hgo, decide_eq_true_eq]

/-- The loop accepts the token of any of its offsets (45_host_flows.md R174). -/
theorem verifyOffsets_accepts {offsets : List Int} {k : Int} (hp : s.params.Admitted) (hd : d ≤ 15)
    (hdef : ∀ i ∈ offsets, TotpDefined s secret (time + i * stepSeconds) stepSeconds) (hk : k ∈ offsets)
    (htoken : totpAnswer hmac secret (time + k * stepSeconds) stepSeconds d h = .ok token) :
    ∃ t, verifyOffsets hmac secret token time stepSeconds d h offsets s = .next (t, .ok true) := by
  have hfits : token.length ≤ s.capacity := by
    rw [length_of_totpAnswer htoken]
    exact hd.trans (le_trans (by decide) hp.1)
  induction offsets generalizing s with
  | nil => cases hk
  | cons i rest ih =>
    obtain ⟨hdefi, hdefrest⟩ := List.forall_mem_cons.mp hdef
    obtain ⟨token', htoken'⟩ := exists_totpAnswer_eq_ok (time + i * stepSeconds) htoken
    obtain ⟨t, hparams, hround⟩ := verifyOffsets_cons hp hd rest hdefi hfits htoken'
    by_cases hmatch : token = token'
    · exact ⟨t, hround.trans (if_pos hmatch)⟩
    · have hne : k ≠ i := by
        rintro rfl
        exact hmatch (Except.ok.inj (htoken.symm.trans htoken'))
      have hcapacity := capacity_eq_of_params_eq hparams
      rw [hround, if_neg hmatch]
      exact ih (hparams ▸ hp) (fun j hj => { hdefrest j hj with fits := hcapacity ▸ (hdefrest j hj).fits })
        (List.mem_of_ne_of_mem hne hk) (hcapacity ▸ hfits)

/-! ## Verification -/

theorem mem_windowOffsets {window : Nat} {i : Int} :
    i ∈ windowOffsets window ↔ -(window : Int) ≤ i ∧ i ≤ window := by
  simp only [windowOffsets, List.mem_map, List.mem_range]
  constructor
  · rintro ⟨n, hn, rfl⟩
    omega
  · rintro ⟨hlow, hhigh⟩
    exact ⟨(i + window).toNat, by omega, by omega⟩

/-- No offset of the window leads before the epoch when its first one does not. -/
theorem time_nonneg_of_mem_windowOffsets {window : Nat} {i : Int} (hepoch : 0 ≤ time - window * stepSeconds)
    (hi : i ∈ windowOffsets window) : 0 ≤ time + i * stepSeconds := by
  obtain ⟨hlow, -⟩ := mem_windowOffsets.mp hi
  have hscaled := Int.mul_le_mul_of_nonneg_right hlow (Int.natCast_nonneg stepSeconds)
  rw [Int.neg_mul] at hscaled
  omega

/-- Settles O52: the token is that of an offset of the loop, and normalisation leaves it as it is. -/
theorem verifyAcceptsTokensOfTheWindow : Obligations.VerifyAcceptsTokensOfTheWindow := by
  intro hmac secret token time k window stepSeconds d h s s' u hs hu hsecret hstep _ hd hlow hhigh hepoch hparams htotp
  have htoken := eq_totpAnswer_of_totp hs.admitted hd htotp
  obtain ⟨code, rfl⟩ := exists_decimalText_of_totpAnswer htoken
  have hcapacity := capacity_eq_of_params_eq hparams
  have hdef : ∀ i ∈ windowOffsets window, TotpDefined u secret (time + i * stepSeconds) stepSeconds := fun i hi =>
    ⟨hcapacity ▸ hsecret, time_nonneg_of_mem_windowOffsets hepoch hi, by omega⟩
  rw [verifyTotp, normaliseCandidate_decimalText]
  exact verifyOffsets_accepts hu.admitted hd hdef (mem_windowOffsets.mpr ⟨hlow, hhigh⟩) htoken

/-- Settles O53: the window of 0 has one offset, so the verdict is that of one round. -/
theorem verifyWithoutWindowDecidesEquality : Obligations.VerifyWithoutWindowDecidesEquality := by
  intro hmac secret candidate token time stepSeconds d h s s' hinv hc hd htotp
  have hnow : time + 0 * (stepSeconds : Int) = time := by rw [Int.zero_mul, Int.add_zero]
  obtain ⟨t, -, hround⟩ := verifyOffsets_cons (candidate := normaliseCandidate candidate) hinv.admitted hd []
    (hnow.symm ▸ totpDefined_of_next htotp) ((length_normaliseCandidate_le candidate).trans hc)
    (hnow.symm ▸ eq_totpAnswer_of_totp hinv.admitted hd htotp)
  refine ⟨t, hround.trans ?_⟩
  by_cases hmatch : normaliseCandidate candidate = token
  · rw [if_pos hmatch, decide_eq_true hmatch]
  · rw [if_neg hmatch, decide_eq_false hmatch, verifyOffsets]

/-! ## The checks before the first move -/

/-- Settles O54: the selector is looked at first, then the arguments, and only then the flow begins. -/
theorem hostChecksPrecedeTheBlock : Obligations.HostChecksPrecedeTheBlock := by
  intro hmac key candidate counter d time window stepSeconds s
  refine ⟨⟨withSupported_alg3 .., withSupported_alg3 .., withSupported_alg3 ..⟩, fun h => ?_⟩
  simp only [checkedHotp, checkedTotp, checkedVerify, withSupported_selectorOf]
  refine ⟨withNonEmpty_empty _ s _ (by simp), withNonEmpty_empty _ s _ (by simp), fun hempty => ?_, fun hkey => ?_,
    fun hkey hcandidate => ?_⟩
  · exact withNonEmpty_empty _ s _ (by simpa [eq_comm] using hempty)
  · exact ⟨withNonEmpty_pass _ s _ (by simpa using hkey.symm), withNonEmpty_pass _ s _ (by simpa using hkey.symm)⟩
  · exact withNonEmpty_pass _ s _ (by simp [hkey.symm, hcandidate.symm])

end Sys2Proof.Machine
end

section
/-! SUPPORT. The two completions of a command (60_exceptions.md R182 to R185): which of the two, with which code, and
what an error leaves. -/

namespace Sys2Proof.Machine

variable {i : Instr} {s t : State}

/-- The result slot of a command, as 60_exceptions.md R184 groups the commands (`CTRENC` and `CLR`, which R184 does not
list, by what they write). -/
def resultSlot : Instr → ResultSlot
  | .b32enc | .b32dec | .ctrenc | .dfmt _ => .output
  | .dtrunc _ => .code
  | .cmp => .compare
  | .clr => .nothing

/-- The causes of `DTRUNC` by the digest length of the algorithm that its selector names (60_exceptions.md R182). -/
theorem completionCode_dtrunc (alg : AlgSel) (s : State) :
    completionCode (.dtrunc alg) s = (supportedHash alg).elim .config
      fun k => if s.alen.toNat = digestLength k then .ok else .input := by
  cases alg <;> rfl

/-- The causes of `B32DEC` by how its decoding ends (40_base32.md R107, 60_exceptions.md R182). -/
theorem completionCode_b32dec (s : State) :
    completionCode .b32dec s = if s.capacity < s.alen.toNat then .input
      else (base32Decode s.operandA).elim .encoding fun _ => .ok := by
  cases hv : validText s.operandA with
  | true => simp [completionCode, hv, base32Decode_of_valid hv]
  | false => simp [completionCode, hv, base32Decode_of_invalid hv]

/-- A command withholds its result with the code of the listed cause, or no cause is listed and it succeeds. -/
theorem completion_cases (h : exec i s = .next t) :
    t = s.raise (resultSlot i) (completionCode i s) ∨ (completionCode i s = .ok ∧ t.err = 0) := by
  cases i with
  | b32enc =>
    obtain ⟨hlong, rfl⟩ | ⟨hfits, rfl⟩ := execB32enc_cases s t h
    · exact .inl (by simp [completionCode, resultSlot, hlong])
    · exact .inr ⟨by simp [completionCode, hfits], rfl⟩
  | b32dec =>
    rw [completionCode_b32dec]
    obtain ⟨hlong, rfl⟩ | ⟨hfits, hd, rfl⟩ | ⟨bytes, hfits, hd, rfl⟩ := execB32dec_cases s t h
    · exact .inl (by simp [resultSlot, hlong])
    · exact .inl (by simp [resultSlot, Nat.not_lt.mpr hfits, hd])
    · exact .inr ⟨by simp [Nat.not_lt.mpr hfits, hd], rfl⟩
  | ctrenc =>
    obtain rfl := execCtrenc_cases s t h
    exact .inr ⟨rfl, rfl⟩
  | dtrunc alg =>
    rw [completionCode_dtrunc]
    obtain ⟨hk, rfl⟩ | ⟨k, hk, hl, rfl⟩ | ⟨k, hk, hl, rfl⟩ := execDtrunc_cases alg s t h
    · exact .inl (by simp [resultSlot, hk])
    · exact .inl (by simp [resultSlot, hk, hl])
    · exact .inr ⟨by simp [hk, hl], rfl⟩
  | dfmt d =>
    obtain ⟨hd, rfl⟩ | ⟨hd, rfl⟩ := execDfmt_cases d s t h
    · exact .inl (by simp [completionCode, resultSlot, hd])
    · exact .inr ⟨by simp [completionCode, hd], rfl⟩
  | cmp =>
    obtain ⟨hlong, rfl⟩ | ⟨ha, hb, -, rfl⟩ | ⟨ha, hb, -, rfl⟩ := execCmp_cases s t h
    · exact .inl (by simp [completionCode, resultSlot, hlong])
    · exact .inr ⟨by simp [completionCode, ha, hb], rfl⟩
    · exact .inr ⟨by simp [completionCode, ha, hb], rfl⟩
  | clr =>
    obtain rfl := execClr_cases s t h
    exact .inr ⟨rfl, rfl⟩

/-- The code in `ERR` is the listed one, by either completion. -/
theorem err_of_exec (h : exec i s = .next t) : t.err = (completionCode i s).bits := by
  obtain rfl | ⟨hok, herr⟩ := completion_cases h
  · exact s.raise_err ..
  · rw [hok, herr]
    rfl

/-- Settles O17: `err_of_exec`, and the completion of an illegal word. -/
theorem completionCodeIsTheListedCause : Obligations.CompletionCodeIsTheListedCause := by
  refine ⟨fun i s => ?_, fun w s hw => ⟨_, executeWord_illegal hw s, rfl⟩⟩
  obtain ⟨t, h⟩ := exec_next i s
  exact ⟨t, h, err_of_exec h⟩

/-- A command whose `ERR` is not 0 has withheld its result, for a cause that the table lists. -/
theorem eq_raise_of_err_ne_zero (h : exec i s = .next t) (herr : t.err ≠ 0) :
    t = s.raise (resultSlot i) (completionCode i s) ∧ completionCode i s ≠ .ok := by
  obtain ht | ⟨-, hzero⟩ := completion_cases h
  · exact ⟨ht, fun hok => herr (by rw [err_of_exec h, hok]; rfl)⟩
  · exact absurd hzero herr

/-- Settles O18: an error completion is `State.raise` of the command's slot, and R182 lists no cause for `CTRENC` and
`CLR`. -/
theorem errorCompletionWithholdsTheResult : Obligations.ErrorCompletionWithholdsTheResult := by
  refine ⟨fun i s t h herr => ?_, fun w s hw => executeWord_illegal hw s⟩
  obtain ⟨rfl, hcause⟩ := eq_raise_of_err_ne_zero h herr
  obtain ⟨houtside, hoperands⟩ := raise_frame s (resultSlot i) (completionCode i s)
  refine ⟨houtside, hoperands, ?_, ?_, ?_, ?_, ?_⟩
  · rintro (rfl | rfl | ⟨d, rfl⟩) <;> exact ⟨rfl, Memory.specified_unspecified, rfl, rfl, rfl⟩
  · rintro ⟨alg, rfl⟩
    exact ⟨rfl, ⟨rfl, rfl, fun _ => rfl⟩, rfl, rfl⟩
  · rintro rfl
    exact ⟨rfl, rfl, rfl, rfl, rfl, fun _ => rfl⟩
  · rintro rfl
    exact hcause rfl
  · rintro rfl
    exact hcause rfl

end Sys2Proof.Machine
end

section
/-! SUPPORT. Reset and hazards (70_reset_and_hazards.md): what the reset input leaves, what each command gives as the
first one after reset, and that a draw of unspecified bytes shows only where an operand covers one. -/

namespace Sys2Proof.Machine

/-! ## The reset input -/

theorem step_reset {s : State} {rest : List Input} (h : s.inputs = .reset :: rest) :
    step s = .next (s.takeInput rest).resetBlock :=
  step_input s .reset rest h

/-- Settles O2: the step is `step_reset`, and the block it leaves is that of `State.resetWith`. -/
theorem resetInputRestoresTheResetState : Obligations.ResetInputRestoresTheResetState :=
  fun _ _ h => ⟨_, step_reset h, rfl, rfl, rfl⟩

/-! ## The first command after reset -/

section

variable (p : Params)

@[simp] theorem State.operandA_resetWith : (State.resetWith p).operandA = [] := rfl

@[simp] theorem State.operandB_resetWith : (State.resetWith p).operandB = [] := rfl

/-- The length registers are 0 after reset, so no operand is too long. -/
theorem State.lengths_resetWith_fit :
    (State.resetWith p).alen.toNat ≤ (State.resetWith p).capacity ∧
      (State.resetWith p).blen.toNat ≤ (State.resetWith p).capacity :=
  ⟨Nat.zero_le _, Nat.zero_le _⟩

theorem exec_b32enc_resetWith :
    exec .b32enc (State.resetWith p) = .next ((State.resetWith p).succeedOutput []) :=
  exec_b32enc_of_fits _ (State.lengths_resetWith_fit p).1

theorem exec_b32dec_resetWith :
    exec .b32dec (State.resetWith p) = .next ((State.resetWith p).succeedOutput []) :=
  exec_b32dec_of_valid _ [] (State.lengths_resetWith_fit p).1 rfl

/-- No digest has the length 0 that `ALEN` holds after reset. -/
theorem exec_dtrunc_resetWith (alg : AlgSel) :
    exec (.dtrunc alg) (State.resetWith p) =
      .next ((State.resetWith p).raise .code (if alg = .alg3 then .config else .input)) := by
  have hlen (k : Hash) : (State.resetWith p).alen.toNat ≠ digestLength k := by
    have hzero : (State.resetWith p).alen.toNat = 0 := rfl
    have hmin := (digestLength_bounds k).1
    omega
  cases alg with
  | sha1 => exact exec_dtrunc_of_wrongLength _ .sha1 .sha1 rfl (hlen _)
  | sha256 => exact exec_dtrunc_of_wrongLength _ .sha256 .sha256 rfl (hlen _)
  | sha512 => exact exec_dtrunc_of_wrongLength _ .sha512 .sha512 rfl (hlen _)
  | alg3 => exact exec_dtrunc_of_unsupported _ .alg3 rfl

theorem result_of_dfmt_resetWith {d : Nat} (hd : d ≤ 15) :
    ((State.resetWith p).succeedOutput (decimalText d (State.resetWith p).code.toNat)).result =
      List.replicate d 0x30 :=
  (result_of_dfmt _ hd).trans (decimalText_zero d)

theorem exec_cmp_resetWith :
    exec .cmp (State.resetWith p) = .next ((State.resetWith p).succeedCompare true 0) :=
  exec_cmp_of_fits _ (State.lengths_resetWith_fit p).1 (State.lengths_resetWith_fit p).2

end

/-- Settles O4, command by command: the registers are 0, so the operands are empty and the counter and the code are
0. -/
theorem firstCommandAfterReset : Obligations.FirstCommandAfterReset := by
  refine fun p _ => ⟨?_, ⟨_, exec_ctrenc _, ?_, rfl⟩, fun alg => ⟨_, exec_dtrunc_resetWith p alg, ?_⟩,
    fun d hpos hd => ⟨_, exec_dfmt_of_ne_zero _ d (by omega), result_of_dfmt_resetWith p hd, rfl⟩,
    ⟨_, exec_dfmt_zero _, rfl⟩, ⟨_, exec_cmp_resetWith p, rfl, rfl, rfl⟩⟩
  · rintro i (rfl | rfl)
    · exact ⟨_, exec_b32enc_resetWith p, rfl, rfl⟩
    · exact ⟨_, exec_b32dec_resetWith p, rfl, rfl⟩
  · exact (result_of_ctrenc _).trans (by decide : counterMessage 0 = List.replicate 8 0)
  · rw [State.raise_err, apply_ite ErrCode.bits]

/-! ## Another draw of the unspecified bytes -/

/-- The same state in the draw numbered `n` (log entry 2). -/
def State.inDraw (s : State) (n : Nat) : State :=
  { s with draws := n }

/-- A known byte reads the same in every draw (70_reset_and_hazards.md R206). -/
theorem Memory.read_eq_of_specified {m : Memory} {a : Nat} (h : m.specified a = true) (sp : Space) (d d' : Nat) :
    m.read sp d a = m.read sp d' a := by
  cases hf : findCell m.cells a with
  | some v => simp [Memory.read, hf]
  | none =>
    have hfill : m.fill = .zero := by simpa [Memory.specified, hf] using h
    simp [Memory.read, Memory.unlisted, hf, hfill]

/-- Every byte of both operands is known. -/
def OperandsKnown (s : State) : Prop :=
  (∀ a, a < s.alen.toNat → s.abuf.specified a = true) ∧ ∀ a, a < s.blen.toNat → s.bbuf.specified a = true

section

variable {s t : State} (n : Nat) (h : OperandsKnown s)
include h

theorem OperandsKnown.readA_inDraw {a : Nat} (ha : a < s.alen.toNat) : (s.inDraw n).readA a = s.readA a :=
  Memory.read_eq_of_specified (h.1 a ha) .abuf n s.draws

theorem OperandsKnown.readB_inDraw {a : Nat} (ha : a < s.blen.toNat) : (s.inDraw n).readB a = s.readB a :=
  Memory.read_eq_of_specified (h.2 a ha) .bbuf n s.draws

theorem OperandsKnown.operandA_inDraw : (s.inDraw n).operandA = s.operandA :=
  operandA_eq_of_reads_eq rfl fun _ ha => h.readA_inDraw n ha

theorem OperandsKnown.operandB_inDraw : (s.inDraw n).operandB = s.operandB :=
  operandB_eq_of_reads_eq rfl fun _ ha => h.readB_inDraw n ha

/-- Truncation stays inside a digest: the offset is at most 15 and a digest has at least 20 bytes
(42_truncate_format.md R130, R131). -/
theorem OperandsKnown.truncate_inDraw {k : Hash} (hl : s.alen.toNat = digestLength k) :
    (s.inDraw n).truncate (digestLength k) = s.truncate (digestLength k) := by
  have hmin := (digestLength_bounds k).1
  have hread : ∀ a, a < digestLength k → (s.inDraw n).readA a = s.readA a := fun a ha =>
    h.readA_inDraw n (hl ▸ ha)
  refine truncate_eq_of_reads_eq _ (hread _ (by omega)) fun j hj => hread _ ?_
  rw [truncationOffset_eq_mod]
  omega

/-- With known operands every command ends in another draw as it ends in this one. -/
theorem OperandsKnown.exec_inDraw {i : Instr} (hs : exec i s = .next t) :
    exec i (s.inDraw n) = .next (t.inDraw n) := by
  have hA := h.operandA_inDraw n
  have hB := h.operandB_inDraw n
  cases i with
  | b32enc =>
    obtain ⟨hn, rfl⟩ | ⟨hn, rfl⟩ := execB32enc_cases s t hs
    · exact exec_b32enc_of_tooLong (s.inDraw n) hn
    · rw [← hA]
      exact exec_b32enc_of_fits (s.inDraw n) hn
  | b32dec =>
    obtain ⟨hn, rfl⟩ | ⟨hn, hd, rfl⟩ | ⟨bytes, hn, hd, rfl⟩ := execB32dec_cases s t hs
    · exact exec_b32dec_of_tooLong (s.inDraw n) hn
    · exact exec_b32dec_of_invalid (s.inDraw n) hn (hA ▸ hd)
    · exact exec_b32dec_of_valid (s.inDraw n) bytes hn (hA ▸ hd)
  | ctrenc =>
    obtain rfl := execCtrenc_cases s t hs
    exact exec_ctrenc (s.inDraw n)
  | dtrunc alg =>
    obtain ⟨hk, rfl⟩ | ⟨k, hk, hl, rfl⟩ | ⟨k, hk, hl, rfl⟩ := execDtrunc_cases alg s t hs
    · exact exec_dtrunc_of_unsupported (s.inDraw n) alg hk
    · exact exec_dtrunc_of_wrongLength (s.inDraw n) alg k hk hl
    · rw [← h.truncate_inDraw n hl]
      exact exec_dtrunc_of_digest (s.inDraw n) alg k hk hl
  | dfmt d =>
    obtain ⟨rfl, rfl⟩ | ⟨hd, rfl⟩ := execDfmt_cases d s t hs
    · exact exec_dfmt_zero (s.inDraw n)
    · exact exec_dfmt_of_ne_zero (s.inDraw n) d hd
  | cmp =>
    obtain ⟨hn, rfl⟩ | ⟨ha, hb, he, rfl⟩ | ⟨ha, hb, he, rfl⟩ := execCmp_cases s t hs
    · exact exec_cmp_of_tooLong (s.inDraw n) hn
    · rw [← hA, ← hB]
      exact exec_cmp_of_eq_length (s.inDraw n) ha hb he
    · exact exec_cmp_of_ne_length (s.inDraw n) ha hb he
  | clr =>
    obtain rfl := execClr_cases s t hs
    exact exec_clr (s.inDraw n)

end

/-- Settles O25: `OperandsKnown.exec_inDraw`, and a command has one outcome in a state. -/
theorem knownOperandsHideTheDraw : Obligations.KnownOperandsHideTheDraw :=
  fun _ _ _ _ n hA hB hs ht => eq_of_exec ht (OperandsKnown.exec_inDraw n ⟨hA, hB⟩ hs)

end Sys2Proof.Machine
end
